-- ==== Sys2Proof/Word.lean ====
section
/-! DEFINITION. The word types of the RSE (00_scope.md R12): every value is unsigned. -/

namespace Sys2Proof

/-- `u8`: a field element, or a byte of shard memory (00 R12, R21). -/
abbrev Byte := BitVec 8

/-- `u16`: the count and index fields of the matrix unit (10 R59, R60). -/
abbrev Half := BitVec 16

/-- `u32`: a host data word, a command word, a register (00 R11, R12). -/
abbrev Word := BitVec 32

end Sys2Proof
end

