-- ==== Sys2Proof/Syntax.lean ====
section
/-! DEFINITION. The commands of the RSE (30_encoding.md R151-R154): one constructor per row of the opcode map. -/

namespace Sys2Proof

/-- The index of a matrix register M0-M3: a 2-bit field, "every value is valid" (30 R153). -/
abbrev MatReg := Fin 4

/-- The 23 commands of 30 R154. The arguments are the fields the command's format uses (30 R151, R152): `md`, `ma`,
`mb` name matrix registers; `f0`, `f1` say whether an optional operand is given. -/
inductive Instr where
  | configure
  | encode
  | verify
  | reconstruct
  | byteCount (f0 : Bool)
  | byteCountOpt (f0 : Bool)
  | markAllPresent
  | checkAllPresent
  | checkWindow (f0 f1 : Bool)
  | countPresent
  | gfAdd
  | gfSub
  | gfMul
  | gfDiv
  | gfExp
  | matNew (md : MatReg)
  | matIdentity (md : MatReg)
  | matVandermonde (md : MatReg)
  | matMul (md ma mb : MatReg)
  | matAugment (md ma mb : MatReg)
  | matSubmatrix (md ma : MatReg)
  | matInvert (md ma : MatReg)
  | matLoadCm (md : MatReg)
  deriving DecidableEq, Repr

/-- The six formats of 30 R152: which fields of the word a command uses. -/
inductive Format where
  | n | h | w | md | mda | mdab
  deriving DecidableEq, Repr

/-- The fields of a command word (30 R151), the two reserved ones among them. -/
structure Fields where
  /-- bits [7:0] -/
  op  : BitVec 8
  /-- bits [9:8] -/
  md  : BitVec 2
  /-- bits [11:10] -/
  ma  : BitVec 2
  /-- bits [13:12] -/
  mb  : BitVec 2
  /-- bits [15:14], reserved -/
  rsvLow : BitVec 2
  /-- bit [16] -/
  f0  : BitVec 1
  /-- bit [17] -/
  f1  : BitVec 1
  /-- bits [31:18], reserved -/
  rsvHigh : BitVec 14
  deriving DecidableEq, Repr

end Sys2Proof
end

