-- ==== Sys2Proof/WellFormed.lean ====
section
/-! DEFINITION. When the fields of a command word are well formed for a format (30_encoding.md R151, R152). A term of
`Instr` is well formed by its type: its register operands are 2-bit indices of which every value is valid and its
flags are single bits (30 R153); what can be ill formed is the raw `Fields` of a word. -/

namespace Sys2Proof

/-- "reserved, must be 0" (30 R151). -/
def Fields.reservedZero (f : Fields) : Bool := f.rsvLow == 0 && f.rsvHigh == 0

/-- The format uses MD (30 R152). -/
def Format.usesMd : Format → Bool
  | .n | .h | .w => false
  | .md | .mda | .mdab => true

/-- The format uses MA (30 R152). -/
def Format.usesMa : Format → Bool
  | .n | .h | .w | .md => false
  | .mda | .mdab => true

/-- The format uses MB (30 R152). -/
def Format.usesMb : Format → Bool
  | .n | .h | .w | .md | .mda => false
  | .mdab => true

/-- The format uses F0 (30 R152). -/
def Format.usesF0 : Format → Bool
  | .n | .md | .mda | .mdab => false
  | .h | .w => true

/-- The format uses F1 (30 R152). -/
def Format.usesF1 : Format → Bool
  | .n | .h | .md | .mda | .mdab => false
  | .w => true

/-- "A field not used by a command's format must be 0 in the word" (30 R152), and the reserved fields are 0. -/
def Fields.wellFormed (fmt : Format) (f : Fields) : Bool :=
  f.reservedZero && (fmt.usesMd || f.md == 0) && (fmt.usesMa || f.ma == 0) && (fmt.usesMb || f.mb == 0) &&
    (fmt.usesF0 || f.f0 == 0) && (fmt.usesF1 || f.f1 == 0)

end Sys2Proof
end

