-- ==== Sys2Proof/Decode.lean ====
section
/-! DEFINITION. Decoding of command words, total on every 32-bit word, and the encoder (30_encoding.md R150-R157). -/

namespace Sys2Proof

/-- Why a word is illegal (30 R156). -/
inductive Reject where
  /-- no row of the opcode map has this OP -/
  | unknownOpcode (op : BitVec 8)
  /-- the row of this mnemonic has the OP, but a bit outside its format's fields is set -/
  | nonzeroUnusedBits (mnemonic : String)
  deriving DecidableEq, Repr

/-- The fields of a word (30 R151). -/
def fieldsOf (w : Word) : Fields where
  op := w.extractLsb' 0 8
  md := w.extractLsb' 8 2
  ma := w.extractLsb' 10 2
  mb := w.extractLsb' 12 2
  rsvLow := w.extractLsb' 14 2
  f0 := w.extractLsb' 16 1
  f1 := w.extractLsb' 17 1
  rsvHigh := w.extractLsb' 18 14

/-- The word with these fields (30 R151). -/
def Fields.word (f : Fields) : Word :=
  f.rsvHigh ++ f.f1 ++ f.f0 ++ f.rsvLow ++ f.mb ++ f.ma ++ f.md ++ f.op

/-- "mask of bits that must match" (30 R152). -/
def Format.mask : Format → Word
  | .n    => 0xFFFFFFFF#32
  | .h    => 0xFFFEFFFF#32
  | .w    => 0xFFFCFFFF#32
  | .md   => 0xFFFFFCFF#32
  | .mda  => 0xFFFFF0FF#32
  | .mdab => 0xFFFFC0FF#32

/-- A row of the opcode map (30 R154). `build` reads the operands the format uses from the word's fields. -/
structure Row where
  mnemonic : String
  op : BitVec 8
  format : Format
  build : Fields → Instr

/-- The word all of whose bits outside the format's fields a row asks for: the opcode alone (30 R154). -/
def Row.matchWord (r : Row) : Word := r.op.setWidth 32

/-- A flag field as "given" (1) or "absent" (0) (30 R153). -/
def flagOf (b : BitVec 1) : Bool := b == 1#1

/-- The register a 2-bit field names (30 R153). -/
def regOf (b : BitVec 2) : MatReg := b.toFin

/-- The opcode map, coder and shard utilities (30 R154). -/
def coderRows : List Row :=
  [ ⟨"CONFIGURE", 0x01#8, .n, fun _ => .configure⟩,
    ⟨"ENCODE", 0x02#8, .n, fun _ => .encode⟩,
    ⟨"VERIFY", 0x03#8, .n, fun _ => .verify⟩,
    ⟨"RECONSTRUCT", 0x04#8, .n, fun _ => .reconstruct⟩,
    ⟨"BYTECOUNT", 0x10#8, .h, fun f => .byteCount (flagOf f.f0)⟩,
    ⟨"BYTECOUNT_OPT", 0x11#8, .h, fun f => .byteCountOpt (flagOf f.f0)⟩,
    ⟨"MARK_ALL_PRESENT", 0x12#8, .n, fun _ => .markAllPresent⟩,
    ⟨"CHECK_ALL_PRESENT", 0x13#8, .n, fun _ => .checkAllPresent⟩,
    ⟨"CHECK_WINDOW", 0x14#8, .w, fun f => .checkWindow (flagOf f.f0) (flagOf f.f1)⟩,
    ⟨"COUNT_PRESENT", 0x15#8, .n, fun _ => .countPresent⟩ ]

/-- The opcode map, field unit and matrix unit (30 R154). -/
def unitRows : List Row :=
  [ ⟨"GF_ADD", 0x20#8, .n, fun _ => .gfAdd⟩,
    ⟨"GF_SUB", 0x21#8, .n, fun _ => .gfSub⟩,
    ⟨"GF_MUL", 0x22#8, .n, fun _ => .gfMul⟩,
    ⟨"GF_DIV", 0x23#8, .n, fun _ => .gfDiv⟩,
    ⟨"GF_EXP", 0x24#8, .n, fun _ => .gfExp⟩,
    ⟨"MAT_NEW", 0x30#8, .md, fun f => .matNew (regOf f.md)⟩,
    ⟨"MAT_IDENTITY", 0x31#8, .md, fun f => .matIdentity (regOf f.md)⟩,
    ⟨"MAT_VANDERMONDE", 0x32#8, .md, fun f => .matVandermonde (regOf f.md)⟩,
    ⟨"MAT_MUL", 0x33#8, .mdab, fun f => .matMul (regOf f.md) (regOf f.ma) (regOf f.mb)⟩,
    ⟨"MAT_AUGMENT", 0x34#8, .mdab, fun f => .matAugment (regOf f.md) (regOf f.ma) (regOf f.mb)⟩,
    ⟨"MAT_SUBMATRIX", 0x35#8, .mda, fun f => .matSubmatrix (regOf f.md) (regOf f.ma)⟩,
    ⟨"MAT_INVERT", 0x36#8, .mda, fun f => .matInvert (regOf f.md) (regOf f.ma)⟩,
    ⟨"MAT_LOAD_CM", 0x37#8, .md, fun f => .matLoadCm (regOf f.md)⟩ ]

/-- The opcode map (30 R154). -/
def opcodeMap : List Row := coderRows ++ unitRows

/-- `row_of_opcode` (30 R155). -/
def rowOfOpcode (op : BitVec 8) : Option Row := opcodeMap.find? fun r => r.op == op

/-- Decoding (30 R155): the word's opcode selects the row, and every bit outside the format's fields must match. -/
def decode (w : Word) : Except Reject Instr :=
  match rowOfOpcode (w.extractLsb' 0 8) with
  | none => .error (.unknownOpcode (w.extractLsb' 0 8))
  | some r =>
    if w &&& r.format.mask = r.matchWord then .ok (r.build (fieldsOf w))
    else .error (.nonzeroUnusedBits r.mnemonic)

/-- A flag as a field (30 R153). -/
def flagBit (b : Bool) : BitVec 1 := BitVec.ofBool b

/-- A register index as a field (30 R153). -/
def regBits (m : MatReg) : BitVec 2 := BitVec.ofFin m

/-- Fields with this opcode and all else 0. -/
def Fields.ofOp (op : BitVec 8) : Fields := ⟨op, 0, 0, 0, 0, 0, 0, 0⟩

/-- The fields of a command's word (30 R151, R154). -/
def Instr.fields : Instr → Fields
  | .configure => .ofOp 0x01#8
  | .encode => .ofOp 0x02#8
  | .verify => .ofOp 0x03#8
  | .reconstruct => .ofOp 0x04#8
  | .byteCount f0 => { Fields.ofOp 0x10#8 with f0 := flagBit f0 }
  | .byteCountOpt f0 => { Fields.ofOp 0x11#8 with f0 := flagBit f0 }
  | .markAllPresent => .ofOp 0x12#8
  | .checkAllPresent => .ofOp 0x13#8
  | .checkWindow f0 f1 => { Fields.ofOp 0x14#8 with f0 := flagBit f0, f1 := flagBit f1 }
  | .countPresent => .ofOp 0x15#8
  | .gfAdd => .ofOp 0x20#8
  | .gfSub => .ofOp 0x21#8
  | .gfMul => .ofOp 0x22#8
  | .gfDiv => .ofOp 0x23#8
  | .gfExp => .ofOp 0x24#8
  | .matNew d => { Fields.ofOp 0x30#8 with md := regBits d }
  | .matIdentity d => { Fields.ofOp 0x31#8 with md := regBits d }
  | .matVandermonde d => { Fields.ofOp 0x32#8 with md := regBits d }
  | .matMul d a b => { Fields.ofOp 0x33#8 with md := regBits d, ma := regBits a, mb := regBits b }
  | .matAugment d a b => { Fields.ofOp 0x34#8 with md := regBits d, ma := regBits a, mb := regBits b }
  | .matSubmatrix d a => { Fields.ofOp 0x35#8 with md := regBits d, ma := regBits a }
  | .matInvert d a => { Fields.ofOp 0x36#8 with md := regBits d, ma := regBits a }
  | .matLoadCm d => { Fields.ofOp 0x37#8 with md := regBits d }

/-- The command word of an instruction (30 R151, R154): what a host writes to CMD to issue it (30 R172). -/
def encode (i : Instr) : Word := i.fields.word

/-- The instruction the decoder reads from the `nbits`-bit word `w` of the opcode table: a command is one 32-bit word
(30 R150), bits above `nbits` are 0. -/
def decodeTableWord (nbits w : Nat) : Option Instr := (decode (BitVec.ofNat 32 (w % 2 ^ nbits))).toOption

end Sys2Proof
end

