-- ==== Sys2Proof/Config.lean ====
section
/-! DEFINITION. What an implementation fixes and what the spec leaves open (00_scope.md R10, 10_state.md R63). -/

namespace Sys2Proof.Config

/-- `RSE_BASE`, the platform's base address of the host window: any value, invisible to every rule, since every
address of the spec is an offset from it (00 R10, 93 I16). Log 7. -/
opaque rseBase : Nat

/-- The platform bus address of a window offset (20 R100). No rule reads it. Log 7. -/
def busAddress (offset : Nat) : Nat := rseBase + offset

/-- A shard-memory byte never written since reset: a draw, any value, possibly different per byte and after every
reset (10 R63, 70 R551, 93 I11). `shmemDraw n a` is byte `a`'s draw after the `n`-th reset. It has no body that a
proof could see: a claim about it holds for every value. Log 2. -/
opaque shmemDraw : Nat → Nat → Byte

/-- The value of the parameter `SHMEM_SIZE` that `State.reset` carries: the one 00 R10 suggests.
DESIGN CHOICE, unsafe: a claim about `State.reset` alone knows this number. Log 1. -/
def suggestedShmemSize : Nat := 0x100000

end Sys2Proof.Config
end

