-- ==== Sys2Proof/Machine/State.lean ====
section
/-! DEFINITION. The state of the RSE as plain data (10_state.md R30, R64), the host agent and the scheduler beside it
as data, the reasons a step can stop, and the state after reset (70_reset_and_hazards.md R550). -/

namespace Sys2Proof.Machine

/-- A matrix value (42 R300): row and column counts and the elements, row by row. The 0 x 0 matrix stands for "holds no
matrix" (10 R62). -/
structure Mat where
  rows : Nat
  cols : Nat
  elems : List (List Byte)
  deriving DecidableEq, Repr

/-- No matrix: the 0 x 0, undefined matrix (10 R61). -/
def Mat.undefined : Mat := ⟨0, 0, []⟩

/-- Shard memory: the bytes written since reset, by address, addresses strictly rising. An unlisted address is a byte
never written since reset, which reads as a draw (10 R63). Log 2. -/
abbrev Memory := List Host.Cell

/-- One host access to the window (20 R100, R103): its width in bits and its offset from RSE_BASE. -/
inductive Access where
  | read  (bits offset : Nat)
  | write (bits offset : Nat) (data : Word)
  deriving DecidableEq, Repr

/-- Why a host access gets a bus error (60 R508). Log 5. -/
inductive BusCause where
  /-- not 32 bits wide (20 R103) -/
  | width
  /-- the offset is not a multiple of 4 (20 R103) -/
  | misaligned
  /-- no location of the address map (20 R102) -/
  | unmapped
  /-- closed while STATUS.BUSY = 1 (20 R106) -/
  | busy
  /-- a matrix or CM window word outside the matrix's dimensions (20 R111) -/
  | outOfMatrix
  deriving DecidableEq, Repr

/-- What the bus last answered the host: the model's own record of the host agent (log 3). -/
inductive Response where
  | none
  /-- read data -/
  | data (v : Word)
  /-- a write that completed -/
  | done
  /-- the platform bus's error response (20 R105) -/
  | error (c : BusCause)
  deriving DecidableEq, Repr

/-- One move of an agent (40 R199, 70 R551): what happens next in the world, as data. Log 3. -/
inductive Move where
  /-- the host performs one access; a bus error is a fault of this host (20 R105, 60 R507) -/
  | access (a : Access)
  /-- the host performs one access and, if the bus answers with its error response, takes it and goes on (20 R105) -/
  | attempt (a : Access)
  /-- the host reads a word and compares the bits of `mask` with `value`: `rd OFFSET == VALUE` (30 R170, R174) -/
  | check (offset : Nat) (mask value : Word)
  /-- the host reads STATUS until BUSY = 0: the loop of `wait` (30 R173) -/
  | wait
  /-- the scheduler gives the step to the engine (40 R199, 70 R570) -/
  | engine
  /-- the platform asserts the reset input (70 R551) -/
  | reset
  deriving DecidableEq, Repr

/-- The host agent and the scheduler: the model's own fields (log 3). -/
structure HostAgent where
  /-- the moves to come, first one next -/
  moves : List Move
  /-- what the bus last answered -/
  response : Response
  /-- some `check` has read another value -/
  checkFailed : Bool
  deriving DecidableEq, Repr

/-- The state (10 R30): every field as named there, then the parameter SHMEM_SIZE (log 1) and the model's own fields
`resets` (log 2) and `host` (log 3). -/
structure State where
  /-- STATUS.BUSY (10 R34) -/
  busy : Bool
  /-- STATUS.DONE (10 R35) -/
  done : Bool
  /-- STATUS.ERR (10 R36) -/
  err : Bool
  /-- STATUS.CONFIGURED (10 R37) -/
  configured : Bool
  /-- STATUS.VERIFY_OK (10 R38) -/
  verifyOk : Bool
  /-- CMD (10 R42); with BUSY, the pending command (10 R64) -/
  cmd : Word
  /-- ERR_CODE[7:0] (10 R43) -/
  errCode : Byte
  /-- ERR_INFO (10 R44) -/
  errInfo : Word
  /-- INT_ENABLE.DONE_IE (10 R45) -/
  doneIe : Bool
  /-- INT_STATUS.DONE_IP (10 R46) -/
  doneIp : Bool
  /-- CFG_D (10 R47) -/
  cfgD : Word
  /-- CFG_P (10 R47) -/
  cfgP : Word
  /-- NDATA (10 R40) -/
  nData : Word
  /-- NPARITY (10 R40) -/
  nParity : Word
  /-- NTOTAL (10 R40) -/
  nTotal : Word
  /-- CM, the coding matrix, NTOTAL x NDATA (10 R41) -/
  cm : Mat
  /-- SHARD_COUNT (10 R48) -/
  shardCount : Word
  /-- HINT (10 R49) -/
  hint : Word
  /-- WIN_START (10 R50) -/
  winStart : Word
  /-- WIN_COUNT (10 R50) -/
  winCount : Word
  /-- BYTE_COUNT (10 R51) -/
  byteCount : Word
  /-- PRESENT_COUNT[8:0] (10 R52) -/
  presentCount : BitVec 9
  /-- PRESENT[0..8): bit i is slot i's presence bit (10 R53) -/
  present : BitVec 256
  /-- SHARD_ADDR (10 R54) -/
  shardAddr : Vector Word 256
  /-- SHARD_LEN (10 R54) -/
  shardLen : Vector Word 256
  /-- ALU_A[7:0] (10 R55) -/
  aluA : Byte
  /-- ALU_B[7:0] (10 R55) -/
  aluB : Byte
  /-- ALU_N (10 R56) -/
  aluN : Word
  /-- ALU_R[7:0] (10 R57) -/
  aluR : Byte
  /-- MAT_ARG_ROWS[15:0] (10 R59) -/
  matArgRows : Half
  /-- MAT_ARG_COLS[15:0] (10 R59) -/
  matArgCols : Half
  /-- IDXR (10 R60) -/
  idxR : Vector Half 256
  /-- IDXC (10 R60) -/
  idxC : Vector Half 512
  /-- M0-M3 with MAT_DIM (10 R61, R62) -/
  mats : Vector Mat 4
  /-- SHMEM, the bytes written since reset (10 R63) -/
  shmem : Memory
  /-- the parameter SHMEM_SIZE, which no step changes (00 R10, 10 R39); log 1 -/
  shmemSize : Nat
  /-- how many resets have happened; log 2 -/
  resets : Nat
  /-- the host agent and the scheduler; log 3 -/
  host : HostAgent
  deriving DecidableEq, Repr

/-- Why a step stops with a fault. -/
inductive Fault where
  /-- A host access got a bus error: "a fault of the host access", no state changes (20 R105, 60 R507, R508). Raised by
  the host's accesses only (`hostAccess`), never by a command. SAFE: the run stops where a host that takes the error
  response may go on; such a host makes the move `attempt`. Log 5. -/
  | busError (cause : BusCause) (offset : Nat)
  deriving DecidableEq, Repr

/-- Why a step is refused. -/
inductive Refusal where
  /-- A command with no meaning yet, by its mnemonic. Raised by `exec` alone; no arm raises it now. SAFE. -/
  | notModelled (mnemonic : String)
  deriving DecidableEq, Repr

/-- What a step answers. -/
abbrev Result := Host.Outcome State Fault Refusal

/-- The state after reset (70 R550), every value the spec's; SHMEM_SIZE is the suggested one (log 1), nothing of SHMEM
is written (log 2), and the host has no move to make (log 3). -/
def State.reset : State where
  busy := false
  done := false
  err := false
  configured := false
  verifyOk := false
  cmd := 0#32
  errCode := 0#8
  errInfo := 0#32
  doneIe := false
  doneIp := false
  cfgD := 0#32
  cfgP := 0#32
  nData := 0#32
  nParity := 0#32
  nTotal := 0#32
  cm := Mat.undefined
  shardCount := 0#32
  hint := 0#32
  winStart := 0#32
  winCount := 0#32
  byteCount := 0#32
  presentCount := 0#9
  present := 0#256
  shardAddr := Vector.replicate 256 0#32
  shardLen := Vector.replicate 256 0#32
  aluA := 0#8
  aluB := 0#8
  aluN := 0#32
  aluR := 0#8
  matArgRows := 0#16
  matArgCols := 0#16
  idxR := Vector.replicate 256 0#16
  idxC := Vector.replicate 512 0#16
  mats := Vector.replicate 4 Mat.undefined
  shmem := []
  shmemSize := Config.suggestedShmemSize
  resets := 0
  host := ⟨[], .none, false⟩

end Sys2Proof.Machine
end

