-- ==== Sys2Proof/Machine/Const.lean ====
section
/-! DEFINITION. The design constants (00_scope.md R11, 10_state.md R39) and the error codes (60_exceptions.md R500). -/

namespace Sys2Proof.Machine

/-- Descriptor slots (00 R9, R11). -/
def nSlots : Nat := 256

/-- Rows of a matrix register, at most (00 R11). -/
def matMaxRows : Nat := 256

/-- Columns of a matrix register, at most (00 R11). -/
def matMaxCols : Nat := 512

/-- D + P, at most: the field's cardinality (00 R9). -/
def maxTotal : Nat := 256

/-- ID (10 R39). -/
def idValue : Word := 0x52534531#32

/-- VERSION (10 R39). -/
def versionValue : Word := 0x00010000#32

/-- The error kinds of 60 R500, NONE apart. -/
inductive ErrCode where
  | tooFewShards
  | tooManyShards
  | incorrectShardSize
  | invalidShardConfiguration
  | singularMatrix
  | dimensionMismatch
  | invalidShardSize
  | illegalCommand
  | notConfigured
  | addressError
  | bufferOverlap
  | divideByZero
  | invalidDimension
  | indexOutOfRange
  | shardAbsent
  deriving DecidableEq, Repr

/-- ERR_CODE after a success: NONE (60 R500). -/
def errNone : Byte := 0x00#8

/-- The numbers of 60 R500. -/
def ErrCode.value : ErrCode → Byte
  | .tooFewShards => 0x01#8
  | .tooManyShards => 0x02#8
  | .incorrectShardSize => 0x03#8
  | .invalidShardConfiguration => 0x04#8
  | .singularMatrix => 0x05#8
  | .dimensionMismatch => 0x06#8
  | .invalidShardSize => 0x07#8
  | .illegalCommand => 0x10#8
  | .notConfigured => 0x11#8
  | .addressError => 0x12#8
  | .bufferOverlap => 0x13#8
  | .divideByZero => 0x14#8
  | .invalidDimension => 0x15#8
  | .indexOutOfRange => 0x16#8
  | .shardAbsent => 0x17#8

/-- Every kind of 60 R500. -/
def ErrCode.all : List ErrCode :=
  [.tooFewShards, .tooManyShards, .incorrectShardSize, .invalidShardConfiguration, .singularMatrix,
   .dimensionMismatch, .invalidShardSize, .illegalCommand, .notConfigured, .addressError, .bufferOverlap,
   .divideByZero, .invalidDimension, .indexOutOfRange, .shardAbsent]

end Sys2Proof.Machine
end

