-- ==== Sys2Proof/Machine/Ops.lean ====
section
/-! DEFINITION. The shared operations: shard memory (00_scope.md R15), byte lanes (20_memory.md R104), presence bits,
slot lengths and matrix registers, the issue of a command, its completion with success or with an error
(40_command_cycle.md R200-R205), and reset (70_reset_and_hazards.md R551). -/

namespace Sys2Proof.Machine

/-! ### Shard memory -/

/-- The byte written at an address since reset, if one was. -/
def Memory.lookup : Memory → Nat → Option Byte
  | [], _ => none
  | (k, v) :: m, a => if k = a then some v else Memory.lookup m a

/-- Write one byte, keeping the addresses strictly rising. -/
def Memory.store : Memory → Nat → Byte → Memory
  | [], a, b => [(a, b)]
  | (k, v) :: m, a, b =>
    if a < k then (a, b) :: (k, v) :: m
    else if a = k then (a, b) :: m
    else (k, v) :: Memory.store m a b

/-- Write a sequence of bytes from an address up: `MemWrite` (00 R15). -/
def Memory.storeBytes : Memory → Nat → List Byte → Memory
  | m, _, [] => m
  | m, a, b :: bs => Memory.storeBytes (Memory.store m a b) (a + 1) bs

/-- The canonical form: addresses strictly rising. Log 2. -/
def Memory.wf (m : Memory) : Bool := decide ((m.map (·.1)).Pairwise (· < ·))

/-- Byte `a` of SHMEM: what was written since reset, else the draw (10 R63). Log 2. -/
def State.byteAt (s : State) (a : Nat) : Byte := (s.shmem.lookup a).getD (Config.shmemDraw s.resets a)

/-- `MemRead(addr, n)` (00 R15). -/
def State.readBytes (s : State) (a n : Nat) : List Byte := (List.range n).map fun k => s.byteAt (a + k)

/-! ### Words and lanes -/

/-- A word from its four byte lanes, lane 0 least significant (20 R104). -/
def packLanes (f : Nat → Byte) : Word := f 3 ++ f 2 ++ f 1 ++ f 0

/-- Byte lane `b` of a word (20 R104). -/
def laneOf (w : Word) (b : Nat) : Byte := w.extractLsb' (8 * b) 8

/-! ### Presence bits, slots, matrix registers -/

/-- Set the presence bits of a list of slots (10 R53). -/
def setPresent : BitVec 256 → List Nat → BitVec 256
  | p, [] => p
  | p, i :: is => setPresent (p ||| (1#256 <<< i)) is

/-- `SHARD_LEN[i] <- L` for a list of slots (43 R395). -/
def setLens : Vector Word 256 → List Nat → Word → Vector Word 256
  | v, [], _ => v
  | v, i :: is, l => setLens (v.setIfInBounds i l) is l

/-- `Md <- X`: dimensions and elements in one update (42 R301). -/
def State.setMat (s : State) (d : MatReg) (x : Mat) : State := { s with mats := s.mats.set d.val x }

/-- The matrix register `m` (10 R62). -/
def State.mat (s : State) (m : MatReg) : Mat := s.mats[m.val]

/-! ### The command cycle -/

/-- What `raise CODE(info)` carries (00 R18). -/
structure CmdError where
  code : ErrCode
  info : Word
  deriving DecidableEq, Repr

/-- `raise CODE(info)` (00 R18). ERR_INFO is a 32-bit register. -/
def raise {α : Type} (code : ErrCode) (info : Nat) : Except CmdError α := .error ⟨code, BitVec.ofNat 32 info⟩

/-- The issue of word `w` (40 R200). It also clears the previous error report: the block has no other return from an
error (60 R504). -/
def State.issue (s : State) (w : Word) : State :=
  { s with cmd := w, busy := true, done := false, err := false, errCode := errNone, errInfo := 0#32 }

/-- The completion of a command whose updates gave `s` (40 R204). -/
def State.completeOk (s : State) : State :=
  { s with busy := false, done := true, err := false, errCode := errNone, errInfo := 0#32, doneIp := true }

/-- The completion of a command that raised an error: the RSE's trap entry (40 R205, 60 R502). Nothing else changes. -/
def State.completeErr (s : State) (e : CmdError) : State :=
  { s with busy := false, done := true, err := true, errCode := e.code.value, errInfo := e.info, doneIp := true }

/-- The completion step of a command issued in state `s`, by what its rule answers: the updated state or an error
(40 R201-R205). -/
def complete (s : State) : Except CmdError State → Result
  | .ok t => .next t.completeOk
  | .error e => .next (s.completeErr e)

/-- A word that decodes to no row (40 R213). -/
def completeIllegal (s : State) : Result := .next (s.completeErr ⟨.illegalCommand, 0#32⟩)

/-! ### Reset -/

/-- The reset input (70 R551, R552): every piece of state takes its reset value, a pending command is abandoned, SHMEM
becomes new draws. The parameter SHMEM_SIZE, and the host agent outside the block, are not reset. Log 2, log 6. -/
def State.hardReset (s : State) : State :=
  { State.reset with shmemSize := s.shmemSize, resets := s.resets + 1, host := s.host }

end Sys2Proof.Machine
end

