-- ==== Sys2Proof/Machine/Flags.lean ====
section
/-! DEFINITION. The status flags as the host reads them (10_state.md R33), the interrupt output (60_exceptions.md
R510), and the verdict flag of VERIFY (10_state.md R38). -/

namespace Sys2Proof.Machine

/-- STATUS (10 R33): BUSY 0, DONE 1, ERR 2, CONFIGURED 3, VERIFY_OK 4, every other bit 0. -/
def State.statusWord (s : State) : Word :=
  BitVec.setWidth 32 (BitVec.ofBool s.verifyOk ++ BitVec.ofBool s.configured ++ BitVec.ofBool s.err ++
    BitVec.ofBool s.done ++ BitVec.ofBool s.busy)

/-- `IRQ = INT_STATUS.DONE_IP AND INT_ENABLE.DONE_IE`, level-sensitive (60 R510). -/
def State.irq (s : State) : Bool := s.doneIp && s.doneIe

/-- A one-bit flag in bit 0 of a word, the other bits reserved (10 R45, R46). -/
def flagWord (b : Bool) : Word := BitVec.setWidth 32 (BitVec.ofBool b)

/-- A write of `v` to the W1C register INT_STATUS: bit 0 = 1 clears DONE_IP, bit 0 = 0 leaves it (10 R46). -/
def w1cDoneIp (ip : Bool) (v : Word) : Bool := ip && !v.getLsbD 0

/-- `STATUS.VERIFY_OK <- ok` (43 R393). -/
def State.setVerifyOk (s : State) (ok : Bool) : State := { s with verifyOk := ok }

end Sys2Proof.Machine
end

