-- ==== Sys2Proof/Machine/Operands.lean ====
section
/-! DEFINITION. The operands a command reads from registers at completion, zero-extended to natural numbers
(30_encoding.md R153), and the shared checks (40_command_cycle.md R206-R210, 42_matrix.md R302, R303). -/

namespace Sys2Proof.Machine

/-! ### Operands -/

/-- SHARD_ADDR[i] as a number. There are 256 slots; a slot number past the table, which no state a run reaches asks
for, reads 0. Log 10. -/
def State.addrOf (s : State) (i : Nat) : Nat := (s.shardAddr[i]?.getD 0#32).toNat

/-- SHARD_LEN[i] as a number. Log 10. -/
def State.lenOf (s : State) (i : Nat) : Nat := (s.shardLen[i]?.getD 0#32).toNat

/-- IDXR[i] as a number. Log 10. -/
def State.rowIndex (s : State) (i : Nat) : Nat := (s.idxR[i]?.getD 0#16).toNat

/-- IDXC[j] as a number. Log 10. -/
def State.colIndex (s : State) (j : Nat) : Nat := (s.idxC[j]?.getD 0#16).toNat

/-- PRESENT[i] = 1 (10 R53). -/
def State.isPresent (s : State) (i : Nat) : Bool := s.present.getLsbD i

/-- `buf(i, L)` (43, Notation). -/
def State.buf (s : State) (i len : Nat) : List Byte := s.readBytes (s.addrOf i) len

/-- `[i in 0..n with PRESENT[i] = 1]`, ascending (43 R395, 44 R451). -/
def State.presentSlots (s : State) (n : Nat) : List Nat := (List.range n).filter fun i => s.isPresent i

/-- `[i in 0..n with PRESENT[i] = 0]`, ascending (43 R395). -/
def State.absentSlots (s : State) (n : Nat) : List Nat := (List.range n).filter fun i => !s.isPresent i

/-! ### Checks -/

/-- `CheckConfigured()` (40 R206). -/
def checkConfigured (s : State) : Except CmdError Unit :=
  if s.configured then .ok () else raise .notConfigured 0

/-- `CheckCount()` (40 R207). -/
def checkCount (s : State) : Except CmdError Unit :=
  if s.shardCount.toNat < s.nTotal.toNat then raise .tooFewShards 0
  else if s.shardCount.toNat > s.nTotal.toNat then raise .tooManyShards 0
  else .ok ()

/-- Some slot's length is 0 or not `len`: the first such slot is INCORRECT_SHARD_SIZE (40 R210, 43 R395). -/
def checkSizes (s : State) (slots : List Nat) (len : Nat) : Except CmdError Unit :=
  match slots.find? (fun i => s.lenOf i == 0 || s.lenOf i != len) with
  | some i => raise .incorrectShardSize i
  | none => .ok ()

/-- `CheckDenseSizes() : L` (40 R210). -/
def checkDenseSizes (s : State) : Except CmdError Nat :=
  match checkSizes s (List.range s.nTotal.toNat) (s.lenOf 0) with
  | .error e => .error e
  | .ok () => .ok (s.lenOf 0)

/-- `CheckBounds(S, L)` (40 R208), an unbounded sum. -/
def checkBounds (s : State) (slots : List Nat) (len : Nat) : Except CmdError Unit :=
  match slots.find? (fun i => decide (s.addrOf i + len > s.shmemSize)) with
  | some i => raise .addressError i
  | none => .ok ()

/-- The buffers of length `len` of two slots overlap (40 R209). -/
def State.overlap (s : State) (i j len : Nat) : Bool :=
  decide (s.addrOf i < s.addrOf j + len) && decide (s.addrOf j < s.addrOf i + len)

/-- `CheckOverlap(S, W, L)` (40 R209). -/
def checkOverlap (s : State) (slots written : List Nat) (len : Nat) : Except CmdError Unit :=
  match written.find? (fun i => slots.any fun j => j != i && s.overlap i j len) with
  | some i => raise .bufferOverlap i
  | none => .ok ()

/-- SHARD_COUNT exceeds the 256-slot table (44 R451-R455). -/
def checkTableSize (s : State) : Except CmdError Unit :=
  if s.shardCount.toNat > nSlots then raise .tooManyShards 0 else .ok ()

/-- Some slot of the list is absent: the first such slot is SHARD_ABSENT (44 R453, R454). -/
def checkPresent (s : State) (slots : List Nat) : Except CmdError Unit :=
  match slots.find? (fun i => !s.isPresent i) with
  | some i => raise .shardAbsent i
  | none => .ok ()

/-- `Defined(m) : matrix` (42 R302). -/
def definedMat (s : State) (m : MatReg) : Except CmdError Mat :=
  if (s.mat m).rows = 0 then raise .invalidDimension 0 else .ok (s.mat m)

/-- `CheckDims(R, C)` (42 R303). -/
def checkDims (r c : Nat) : Except CmdError Unit :=
  if r < 1 ∨ r > matMaxRows ∨ c < 1 ∨ c > matMaxCols then raise .invalidDimension 0 else .ok ()

end Sys2Proof.Machine
end

