-- ==== Sys2Proof/Machine/AddressMap.lean ====
section
/-! DEFINITION. The host window's address map (20_memory.md R101, R102). -/

namespace Sys2Proof.Machine

/-- A location of the host window: a word of R101's map. Matrix and CM window words are located by row and word
column; whether the matrix has them is 20 R111's. -/
inductive Loc where
  | id | version | shmemSizeReg | status | cmd | errCode | errInfo | intEnable | intStatus
  | cfgD | cfgP | nData | nParity | nTotal
  | shardCount | hint | winStart | winCount | byteCount | presentCount
  | aluA | aluB | aluN | aluR | matArgRows | matArgCols
  | matDim (m : Fin 4)
  | present (w : Fin 8)
  | logWord (w : Fin 64)
  | expWord (w : Fin 64)
  | shardAddr (i : Fin 256)
  | shardLen (i : Fin 256)
  | idxR (i : Fin 256)
  | idxC (j : Fin 512)
  | cmWord (r : Fin 256) (w : Fin 64)
  | matWord (m : Fin 4) (r : Fin 256) (w : Fin 128)
  | shmem (a : Nat)
  deriving DecidableEq, Repr

/-- The offset of a location (20 R101, 10_state.md): the offset its register name stands for (30 R170). -/
def Loc.offset : Loc → Nat
  | .id => 0x0000
  | .version => 0x0004
  | .shmemSizeReg => 0x0008
  | .status => 0x000C
  | .cmd => 0x0010
  | .errCode => 0x0014
  | .errInfo => 0x0018
  | .intEnable => 0x001C
  | .intStatus => 0x0020
  | .cfgD => 0x0024
  | .cfgP => 0x0028
  | .nData => 0x002C
  | .nParity => 0x0030
  | .nTotal => 0x0034
  | .shardCount => 0x0038
  | .hint => 0x003C
  | .winStart => 0x0040
  | .winCount => 0x0044
  | .byteCount => 0x0048
  | .presentCount => 0x004C
  | .aluA => 0x0050
  | .aluB => 0x0054
  | .aluN => 0x0058
  | .aluR => 0x005C
  | .matArgRows => 0x0060
  | .matArgCols => 0x0064
  | .matDim m => 0x0070 + 4 * m.val
  | .present w => 0x0100 + 4 * w.val
  | .logWord w => 0x0400 + 4 * w.val
  | .expWord w => 0x0500 + 4 * w.val
  | .shardAddr i => 0x0800 + 8 * i.val
  | .shardLen i => 0x0804 + 8 * i.val
  | .idxR i => 0x1000 + 4 * i.val
  | .idxC j => 0x1400 + 4 * j.val
  | .cmWord r w => 0x10000 + 0x100 * r.val + 4 * w.val
  | .matWord m r w => 0x100000 + 0x20000 * m.val + 0x200 * r.val + 4 * w.val
  | .shmem a => 0x1000000 + a

/-- The single registers in the order of their offsets, from 0x0000 up, four bytes each (20 R101). -/
def registerLocs : List Loc :=
  [.id, .version, .shmemSizeReg, .status, .cmd, .errCode, .errInfo, .intEnable, .intStatus,
   .cfgD, .cfgP, .nData, .nParity, .nTotal, .shardCount, .hint, .winStart, .winCount, .byteCount, .presentCount,
   .aluA, .aluB, .aluN, .aluR, .matArgRows, .matArgCols]

/-- The arrays of small words: MAT_DIM to IDXC (20 R101), at a multiple of 4. -/
def locateArray (o : Nat) : Option Loc :=
  if h : 0x0070 ≤ o ∧ o < 0x0080 then some (.matDim ⟨(o - 0x0070) / 4, by omega⟩)
  else if h : 0x0100 ≤ o ∧ o < 0x0120 then some (.present ⟨(o - 0x0100) / 4, by omega⟩)
  else if h : 0x0400 ≤ o ∧ o < 0x0500 then some (.logWord ⟨(o - 0x0400) / 4, by omega⟩)
  else if h : 0x0500 ≤ o ∧ o < 0x0600 then some (.expWord ⟨(o - 0x0500) / 4, by omega⟩)
  else if h : 0x0800 ≤ o ∧ o < 0x1000 then
    if (o - 0x0800) % 8 = 0 then some (.shardAddr ⟨(o - 0x0800) / 8, by omega⟩)
    else some (.shardLen ⟨(o - 0x0800) / 8, by omega⟩)
  else if h : 0x1000 ≤ o ∧ o < 0x1400 then some (.idxR ⟨(o - 0x1000) / 4, by omega⟩)
  else if h : 0x1400 ≤ o ∧ o < 0x1C00 then some (.idxC ⟨(o - 0x1400) / 4, by omega⟩)
  else none

/-- The CM window, the matrix windows and the SHMEM window (20 R101), at a multiple of 4. -/
def locateWindow (size o : Nat) : Option Loc :=
  if h : 0x10000 ≤ o ∧ o < 0x20000 then
    some (.cmWord ⟨(o - 0x10000) / 0x100, by omega⟩ ⟨(o - 0x10000) % 0x100 / 4, by omega⟩)
  else if h : 0x100000 ≤ o ∧ o < 0x180000 then
    some (.matWord ⟨(o - 0x100000) / 0x20000, by omega⟩ ⟨(o - 0x100000) % 0x20000 / 0x200, by omega⟩
      ⟨(o - 0x100000) % 0x200 / 4, by omega⟩)
  else if 0x1000000 ≤ o ∧ o < 0x2000000 ∧ o - 0x1000000 < size then some (.shmem (o - 0x1000000))
  else none

/-- The location of an offset, if it is a multiple of 4 and mapped (20 R101, R102); `size` is SHMEM_SIZE. -/
def locate (size o : Nat) : Option Loc :=
  if o % 4 ≠ 0 then none
  else if o < 0x0068 then registerLocs[o / 4]?
  else
    match locateArray o with
    | some l => some l
    | none => locateWindow size o

/-- May the location be accessed while STATUS.BUSY = 1 (20 R106)? A write only to INT_ENABLE and INT_STATUS. Log 5. -/
def openWhileBusy (isWrite : Bool) : Loc → Bool
  | .intEnable | .intStatus => true
  | .id | .version | .shmemSizeReg | .status | .cmd | .errCode | .errInfo => !isWrite
  | .cfgD | .cfgP | .nData | .nParity | .nTotal | .shardCount | .hint | .winStart | .winCount | .byteCount
  | .presentCount | .aluA | .aluB | .aluN | .aluR | .matArgRows | .matArgCols | .matDim _ | .present _ | .logWord _
  | .expWord _ | .shardAddr _ | .shardLen _ | .idxR _ | .idxC _ | .cmWord _ _ | .matWord _ _ _ | .shmem _ => false

end Sys2Proof.Machine
end

