-- ==== Sys2Proof/Machine/Matrix.lean ====
section
/-! DEFINITION. Matrix values, the matrix functions with Gauss-Jordan inversion, and the MAT_* commands (42_matrix.md). -/

namespace Sys2Proof.Machine

/-! ### Matrix values -/

/-- Element `A[r][c]` (42 R300), zero-based. Outside the dimensions there is no element; no rule reads one (log 8). -/
def Mat.at (a : Mat) (r c : Nat) : Byte := (a.elems.getD r []).getD c 0#8

/-- The `r` x `c` matrix with these elements. -/
def Mat.build (r c : Nat) (f : Nat → Nat → Byte) : Mat :=
  ⟨r, c, (List.range r).map fun i => (List.range c).map fun j => f i j⟩

/-- A matrix value in canonical form, within the capacity of a register or no matrix at all: ROWS = 0 iff COLS = 0,
at most 256 x 512, and exactly ROWS rows of COLS elements (10 R61, R62; 42 R300). -/
def Mat.wf (a : Mat) : Bool :=
  decide (a.rows ≤ matMaxRows) && decide (a.cols ≤ matMaxCols) && decide (a.rows = 0 ↔ a.cols = 0) &&
    decide (a.elems.length = a.rows) && a.elems.all fun row => decide (row.length = a.cols)

/-! ### Matrix functions -/

/-- `zero(R, C)` (42 R310). -/
def Mat.zero (r c : Nat) : Mat := Mat.build r c fun _ _ => 0x00#8

/-- `identity(n)` (42 R310). -/
def Mat.identity (n : Nat) : Mat := Mat.build n n fun r c => if r = c then 0x01#8 else 0x00#8

/-- `vandermonde(R, C)` (42 R311): row r, column c is the field element r to the power c, with 0^0 = 1. -/
def Mat.vandermonde (r c : Nat) : Mat := Mat.build r c fun i j => gfExp (BitVec.ofNat 8 i) j

/-- `product(A, B)` (42 R312). -/
def Mat.product (a b : Mat) : Mat :=
  Mat.build a.rows b.cols fun i j => gfSum ((List.range a.cols).map fun k => gfMul (a.at i k) (b.at k j))

/-- `augment(A, B)` (42 R313). -/
def Mat.augment (a b : Mat) : Mat :=
  Mat.build a.rows (a.cols + b.cols) fun r c => if c < a.cols then a.at r c else b.at r (c - a.cols)

/-- `submatrix(A, rl, cl)` (42 R314). -/
def Mat.submatrix (a : Mat) (rl cl : List Nat) : Mat :=
  Mat.build rl.length cl.length fun i j => a.at (rl.getD i 0) (cl.getD j 0)

/-- Swap two rows (42 R315). -/
def Mat.swapRows (w : Mat) (p q : Nat) : Mat :=
  Mat.build w.rows w.cols fun r c => w.at (if r = p then q else if r = q then p else r) c

/-- The pivot search of column r (42 R315): row r is kept if its entry is nonzero, else the first row below with a
nonzero entry, scanning downward, is swapped in. -/
def Mat.pivot (w : Mat) (r : Nat) : Mat :=
  if w.at r r = 0#8 then
    match (List.range' (r + 1) (w.rows - (r + 1))).find? (fun rb => w.at rb r != 0#8) with
    | some rb => w.swapRows r rb
    | none => w
  else w

/-- Scale row r by s (42 R315). -/
def Mat.scaleRow (w : Mat) (r : Nat) (s : Byte) : Mat :=
  Mat.build w.rows w.cols fun o c => if o = r then gfMul (w.at r c) s else w.at o c

/-- Eliminate column r from every other row, above and below (42 R315). -/
def Mat.clearColumn (w : Mat) (r : Nat) : Mat :=
  Mat.build w.rows w.cols fun o c => if o = r then w.at o c else w.at o c ^^^ gfMul (w.at o r) (w.at r c)

/-- What an inversion answers (42 R315, 43 R381): a matrix (`Inverse(B)`, `Matrix(X)`), or `Singular(col)`. -/
inductive Solved where
  | singular (col : Nat)
  | matrix (x : Mat)
  deriving DecidableEq, Repr

/-- The loop of Gauss-Jordan over a list of pivot columns (42 R315): the working array, or the failing column. The
pivot is 0 exactly where `gf_div(1, pivot)` has no value (41 R257). -/
def gaussJordan : Mat → List Nat → Solved
  | w, [] => .matrix w
  | w, r :: rs =>
    match gfDiv 0x01#8 ((w.pivot r).at r r) with
    | none => .singular r
    | some s => gaussJordan (((w.pivot r).scaleRow r s).clearColumn r) rs

/-- `invert(A)` (42 R315). -/
def Mat.invert (a : Mat) : Solved :=
  match gaussJordan (a.augment (Mat.identity a.rows)) (List.range a.rows) with
  | .singular c => .singular c
  | .matrix w => .matrix (w.submatrix (List.range a.rows) (List.range' a.rows a.rows))

/-! ### Commands -/

/-- The rule of MAT_NEW (42 R320). -/
def matNewRule (md : MatReg) (s : State) : Except CmdError State := do
  checkDims s.matArgRows.toNat s.matArgCols.toNat
  .ok (s.setMat md (Mat.zero s.matArgRows.toNat s.matArgCols.toNat))

/-- MAT_NEW (42 R320). -/
def execMatNew (md : MatReg) (s : State) : Result := complete s (matNewRule md s)

/-- The rule of MAT_IDENTITY (42 R321). -/
def matIdentityRule (md : MatReg) (s : State) : Except CmdError State :=
  if s.matArgRows.toNat < 1 ∨ s.matArgRows.toNat > matMaxRows then raise .invalidDimension 0
  else .ok (s.setMat md (Mat.identity s.matArgRows.toNat))

/-- MAT_IDENTITY (42 R321). -/
def execMatIdentity (md : MatReg) (s : State) : Result := complete s (matIdentityRule md s)

/-- The rule of MAT_VANDERMONDE (42 R322). -/
def matVandermondeRule (md : MatReg) (s : State) : Except CmdError State := do
  checkDims s.matArgRows.toNat s.matArgCols.toNat
  .ok (s.setMat md (Mat.vandermonde s.matArgRows.toNat s.matArgCols.toNat))

/-- MAT_VANDERMONDE (42 R322). -/
def execMatVandermonde (md : MatReg) (s : State) : Result := complete s (matVandermondeRule md s)

/-- The rule of MAT_MUL (42 R323). -/
def matMulRule (md ma mb : MatReg) (s : State) : Except CmdError State := do
  let a ← definedMat s ma
  let b ← definedMat s mb
  if a.cols ≠ b.rows then raise .dimensionMismatch 0
  else .ok (s.setMat md (a.product b))

/-- MAT_MUL (42 R323). -/
def execMatMul (md ma mb : MatReg) (s : State) : Result := complete s (matMulRule md ma mb s)

/-- The rule of MAT_AUGMENT (42 R324). -/
def matAugmentRule (md ma mb : MatReg) (s : State) : Except CmdError State := do
  let a ← definedMat s ma
  let b ← definedMat s mb
  if a.rows ≠ b.rows then raise .dimensionMismatch 0
  else if a.cols + b.cols > matMaxCols then raise .invalidDimension 0
  else .ok (s.setMat md (a.augment b))

/-- MAT_AUGMENT (42 R324). -/
def execMatAugment (md ma mb : MatReg) (s : State) : Result := complete s (matAugmentRule md ma mb s)

/-- The list checks of MAT_SUBMATRIX (42 R325): every row-list entry before any column-list entry, ERR_INFO the list
position, with bit 31 set for a column-list position. -/
def checkIndices (s : State) (a : Mat) (r c : Nat) : Except CmdError Unit :=
  match (List.range r).find? (fun i => decide (s.rowIndex i ≥ a.rows)) with
  | some i => raise .indexOutOfRange i
  | none =>
    match (List.range c).find? (fun j => decide (s.colIndex j ≥ a.cols)) with
    | some j => raise .indexOutOfRange (0x80000000 ||| j)
    | none => .ok ()

/-- The rule of MAT_SUBMATRIX (42 R325). -/
def matSubmatrixRule (md ma : MatReg) (s : State) : Except CmdError State := do
  let a ← definedMat s ma
  let r := s.matArgRows.toNat
  let c := s.matArgCols.toNat
  checkDims r c
  checkIndices s a r c
  .ok (s.setMat md (a.submatrix ((List.range r).map s.rowIndex) ((List.range c).map s.colIndex)))

/-- MAT_SUBMATRIX (42 R325). -/
def execMatSubmatrix (md ma : MatReg) (s : State) : Result := complete s (matSubmatrixRule md ma s)

/-- The rule of MAT_INVERT (42 R326). -/
def matInvertRule (md ma : MatReg) (s : State) : Except CmdError State := do
  let a ← definedMat s ma
  if a.rows ≠ a.cols then raise .dimensionMismatch 0
  else
    match a.invert with
    | .singular c => raise .singularMatrix c
    | .matrix b => .ok (s.setMat md b)

/-- MAT_INVERT (42 R326). -/
def execMatInvert (md ma : MatReg) (s : State) : Result := complete s (matInvertRule md ma s)

/-- The rule of MAT_LOAD_CM (42 R327). -/
def matLoadCmRule (md : MatReg) (s : State) : Except CmdError State := do
  checkConfigured s
  .ok (s.setMat md s.cm)

/-- MAT_LOAD_CM (42 R327). -/
def execMatLoadCm (md : MatReg) (s : State) : Result := complete s (matLoadCmRule md s)

end Sys2Proof.Machine
end

