-- ==== Sys2Proof/Machine/Bus.lean ====
section
/-! DEFINITION. The host port: what a host access of the window reads or writes, and when it gets a bus error
(20_memory.md R103-R112, 60_exceptions.md R508). -/

namespace Sys2Proof.Machine

/-! ### Matrix window words -/

/-- The word rule accepts row r, word column w of a matrix of these dimensions (20 R111). -/
def wordInside (rows cols r w : Nat) : Bool := decide (r < rows) && decide (4 * w < cols)

/-- An accepted word of a matrix window: a lane past the last column reads 0 (20 R111). -/
def readMatWord (a : Mat) (cols r w : Nat) : Word :=
  packLanes fun b => if 4 * w + b < cols then a.at r (4 * w + b) else 0#8

/-- A write of an accepted word of a matrix window: only the elements it covers change, a lane past the last column is
discarded (20 R111, 42 R318). -/
def writeMatWord (a : Mat) (r w : Nat) (v : Word) : Mat :=
  Mat.build a.rows a.cols fun i j =>
    if i = r ∧ 4 * w ≤ j ∧ j < 4 * w + 4 then laneOf v (j - 4 * w) else a.at i j

/-- `PRESENT[w] <- v`: bits 32w .. 32w+31 (10 R53). -/
def setPresentWord (p : BitVec 256) (w : Nat) (v : Word) : BitVec 256 :=
  (p &&& ~~~((0xFFFFFFFF#32).setWidth 256 <<< (32 * w))) ||| (v.setWidth 256 <<< (32 * w))

/-! ### Reads -/

/-- What a read of a location returns; none is the bus error of 20 R111. Reads have no side effects (20 R109). -/
def State.readLoc (s : State) : Loc → Option Word
  | .id => some idValue
  | .version => some versionValue
  | .shmemSizeReg => some (BitVec.ofNat 32 s.shmemSize)
  | .status => some s.statusWord
  | .cmd => some s.cmd
  | .errCode => some (s.errCode.setWidth 32)
  | .errInfo => some s.errInfo
  | .intEnable => some (flagWord s.doneIe)
  | .intStatus => some (flagWord s.doneIp)
  | .cfgD => some s.cfgD
  | .cfgP => some s.cfgP
  | .nData => some s.nData
  | .nParity => some s.nParity
  | .nTotal => some s.nTotal
  | .shardCount => some s.shardCount
  | .hint => some s.hint
  | .winStart => some s.winStart
  | .winCount => some s.winCount
  | .byteCount => some s.byteCount
  | .presentCount => some (s.presentCount.setWidth 32)
  | .aluA => some (s.aluA.setWidth 32)
  | .aluB => some (s.aluB.setWidth 32)
  | .aluN => some s.aluN
  | .aluR => some (s.aluR.setWidth 32)
  | .matArgRows => some (s.matArgRows.setWidth 32)
  | .matArgCols => some (s.matArgCols.setWidth 32)
  | .matDim m => some (BitVec.ofNat 16 (s.mat m).cols ++ BitVec.ofNat 16 (s.mat m).rows)
  | .present w => some (s.present.extractLsb' (32 * w.val) 32)
  | .logWord w => some (packLanes fun b => logTable.getD (4 * w.val + b) 0#8)
  | .expWord w => some (packLanes fun b => expTable.getD (4 * w.val + b) 0#8)
  | .shardAddr i => some s.shardAddr[i.val]
  | .shardLen i => some s.shardLen[i.val]
  | .idxR i => some (s.idxR[i.val].setWidth 32)
  | .idxC j => some (s.idxC[j.val].setWidth 32)
  | .cmWord r w =>
    if wordInside s.nTotal.toNat s.nData.toNat r.val w.val then some (readMatWord s.cm s.nData.toNat r.val w.val)
    else none
  | .matWord m r w =>
    if wordInside (s.mat m).rows (s.mat m).cols r.val w.val then
      some (readMatWord (s.mat m) (s.mat m).cols r.val w.val)
    else none
  | .shmem a => some (packLanes fun b => s.byteAt (a + b))

/-! ### Writes -/

/-- What a write of `v` to a location does; none is the bus error of 20 R111. A read-only location keeps its value
(20 R107), a register keeps only its implemented bits (20 R108), CMD issues (40 R200), INT_STATUS is W1C (10 R46). -/
def State.writeLoc (s : State) (v : Word) : Loc → Option State
  | .id | .version | .shmemSizeReg | .status | .errCode | .errInfo | .nData | .nParity | .nTotal
  | .byteCount | .presentCount | .aluR | .matDim _ | .logWord _ | .expWord _ => some s
  | .cmd => some (s.issue v)
  | .intEnable => some { s with doneIe := v.getLsbD 0 }
  | .intStatus => some { s with doneIp := w1cDoneIp s.doneIp v }
  | .cfgD => some { s with cfgD := v }
  | .cfgP => some { s with cfgP := v }
  | .shardCount => some { s with shardCount := v }
  | .hint => some { s with hint := v }
  | .winStart => some { s with winStart := v }
  | .winCount => some { s with winCount := v }
  | .aluA => some { s with aluA := v.setWidth 8 }
  | .aluB => some { s with aluB := v.setWidth 8 }
  | .aluN => some { s with aluN := v }
  | .matArgRows => some { s with matArgRows := v.setWidth 16 }
  | .matArgCols => some { s with matArgCols := v.setWidth 16 }
  | .present w => some { s with present := setPresentWord s.present w.val v }
  | .shardAddr i => some { s with shardAddr := s.shardAddr.set i.val v }
  | .shardLen i => some { s with shardLen := s.shardLen.set i.val v }
  | .idxR i => some { s with idxR := s.idxR.set i.val (v.setWidth 16) }
  | .idxC j => some { s with idxC := s.idxC.set j.val (v.setWidth 16) }
  | .cmWord r w => if wordInside s.nTotal.toNat s.nData.toNat r.val w.val then some s else none
  | .matWord m r w =>
    if wordInside (s.mat m).rows (s.mat m).cols r.val w.val then
      some (s.setMat m (writeMatWord (s.mat m) r.val w.val v))
    else none
  | .shmem a =>
    some { s with shmem := s.shmem.storeBytes a [laneOf v 0, laneOf v 1, laneOf v 2, laneOf v 3] }

/-! ### Accesses -/

/-- The location an access reaches, or the cause of its bus error (60 R508): its width, its alignment, the map, the busy
rule. The order of the causes is the model's own (log 5). -/
def reachedLoc (s : State) (isWrite : Bool) (bits offset : Nat) : Except BusCause Loc :=
  if bits ≠ 32 then .error .width
  else if offset % 4 ≠ 0 then .error .misaligned
  else
    match locate s.shmemSize offset with
    | none => .error .unmapped
    | some l => if s.busy && !openWhileBusy isWrite l then .error .busy else .ok l

/-- The answer the host got (log 3). -/
def State.respond (s : State) (r : Response) : State := { s with host := { s.host with response := r } }

/-- A host read (20 R103-R112): the data, and no state of the RSE changes; or a bus error. -/
def hostRead (bits offset : Nat) (s : State) : Result :=
  match reachedLoc s false bits offset with
  | .error c => .fault (.busError c offset)
  | .ok l =>
    match s.readLoc l with
    | none => .fault (.busError .outOfMatrix offset)
    | some v => .next (s.respond (.data v))

/-- A host write (20 R103-R112), or a bus error. -/
def hostWrite (bits offset : Nat) (v : Word) (s : State) : Result :=
  match reachedLoc s true bits offset with
  | .error c => .fault (.busError c offset)
  | .ok l =>
    match s.writeLoc v l with
    | none => .fault (.busError .outOfMatrix offset)
    | some t => .next (t.respond .done)

/-- One host access (20 R100). -/
def hostAccess (a : Access) (s : State) : Result :=
  match a with
  | .read bits offset => hostRead bits offset s
  | .write bits offset data => hostWrite bits offset data s

/-- The moves still to come. -/
def State.withMoves (s : State) (ms : List Move) : State := { s with host := { s.host with moves := ms } }

/-- The host compares what it read with an expected value (30 R170, R174); a mismatch is remembered and the script goes
on (log 3). -/
def State.noteCheck (s : State) (mask value : Word) : State :=
  match s.host.response with
  | .data v =>
    if v &&& mask = value &&& mask then s else { s with host := { s.host with checkFailed := true } }
  | .none | .done | .error _ => { s with host := { s.host with checkFailed := true } }

/-- An access of a host that takes the error response and goes on: the host has it in place of data, and nothing of the
RSE has changed (20 R105). Log 5. -/
def hostAttempt (a : Access) (s : State) : Result :=
  match hostAccess a s with
  | .fault (.busError c _) => .next (s.respond (.error c))
  | .next t => .next t
  | .refused r => .refused r

end Sys2Proof.Machine
end

