-- ==== Sys2Proof/Machine/Coder.lean ====
section
/-! DEFINITION. The coder: the systematic coding matrix and CONFIGURE, ENCODE, VERIFY, RECONSTRUCT (43_coder.md). -/

namespace Sys2Proof.Machine

/-! ### Configuration -/

/-- `codingMatrix(D, P)` (43 R381): the Vandermonde matrix times, on its right, the inverse of its top block
(90 C1). Singular(c) is unreachable (R382). -/
def codingMatrix (d p : Nat) : Solved :=
  match ((Mat.vandermonde (d + p) d).submatrix (List.range d) (List.range d)).invert with
  | .singular c => .singular c
  | .matrix t => .matrix ((Mat.vandermonde (d + p) d).product t)

/-- The commit of CONFIGURE (43 R380). -/
def State.setConfig (s : State) (d p : Nat) (x : Mat) : State :=
  { s with cm := x, nData := BitVec.ofNat 32 d, nParity := BitVec.ofNat 32 p, nTotal := BitVec.ofNat 32 (d + p),
           configured := true }

/-- The rule of CONFIGURE (43 R380); the sum is computed without wrap. -/
def configureRule (s : State) : Except CmdError State :=
  if s.cfgD.toNat = 0 ∨ s.cfgP.toNat = 0 ∨ s.cfgD.toNat + s.cfgP.toNat > maxTotal then
    raise .invalidShardConfiguration 0
  else
    match codingMatrix s.cfgD.toNat s.cfgP.toNat with
    | .singular c => raise .singularMatrix c
    | .matrix x => .ok (s.setConfig s.cfgD.toNat s.cfgP.toNat x)

/-- CONFIGURE (43 R380). -/
def execConfigure (s : State) : Result := complete s (configureRule s)

/-! ### Encode and verify -/

/-- All slots of the collection: `[0..N)` (43 R390). -/
def State.allSlots (s : State) : List Nat := List.range s.nTotal.toNat

/-- The parity slots: `[D..N)` (43 R390). -/
def State.paritySlots (s : State) : List Nat :=
  List.range' s.nData.toNat (s.nTotal.toNat - s.nData.toNat)

/-- The weighted field sum of byte position k of D byte sequences: `add over j in 0..D of gf_mul(coef(j), data(j)[k])`,
for k in 0..L (43 R391, R395, R396). -/
def combine (d len : Nat) (coef : Nat → Byte) (data : Nat → List Byte) : List Byte :=
  (List.range len).map fun k => gfSum ((List.range d).map fun j => gfMul (coef j) ((data j).getD k 0#8))

/-- `parity(r, L)` (43 R391): every read is of the state at issue. -/
def State.parity (s : State) (r len : Nat) : List Byte :=
  combine s.nData.toNat len (fun j => s.cm.at r j) (fun j => s.buf j len)

/-- `buf(i, L) <- content(i)` for a list of slots, in order (43 R390, R395). -/
def State.writeSlots (s : State) (content : Nat → List Byte) : Memory → List Nat → Memory
  | m, [] => m
  | m, i :: is => State.writeSlots s content (m.storeBytes (s.addrOf i) (content i)) is

/-- The checks of ENCODE, in order (43 R390); they answer L. -/
def encodeChecks (s : State) : Except CmdError Nat := do
  checkConfigured s
  checkCount s
  let len ← checkDenseSizes s
  checkBounds s s.allSlots len
  checkOverlap s s.allSlots s.paritySlots len
  .ok len

/-- The updates of ENCODE (43 R390). -/
def State.encodeShards (s : State) (len : Nat) : State :=
  { s with shmem := s.writeSlots (fun r => s.parity r len) s.shmem s.paritySlots }

/-- The rule of ENCODE (43 R390). -/
def encodeRule (s : State) : Except CmdError State := do
  let len ← encodeChecks s
  .ok (s.encodeShards len)

/-- ENCODE (43 R390). -/
def execEncode (s : State) : Result := complete s (encodeRule s)

/-- The checks of VERIFY, in order (43 R393): ENCODE's but the overlap check; they answer L. -/
def verifyChecks (s : State) : Except CmdError Nat := do
  checkConfigured s
  checkCount s
  let len ← checkDenseSizes s
  checkBounds s s.allSlots len
  .ok len

/-- The verdict of VERIFY (43 R393): every parity buffer holds its parity, byte for byte. -/
def State.parityMatches (s : State) (len : Nat) : Bool :=
  s.paritySlots.all fun r => s.parity r len == s.buf r len

/-- The rule of VERIFY (43 R393). -/
def verifyRule (s : State) : Except CmdError State := do
  let len ← verifyChecks s
  .ok (s.setVerifyOk (s.parityMatches len))

/-- VERIFY (43 R393). -/
def execVerify (s : State) : Result := complete s (verifyRule s)

/-! ### Reconstruct -/

/-- The checks (1) to (4) of RECONSTRUCT, in order (43 R395); they answer L. -/
def reconstructChecks (s : State) : Except CmdError Nat := do
  checkConfigured s
  checkCount s
  let pr := s.presentSlots s.nTotal.toNat
  if pr.length < s.nData.toNat then raise .tooFewShards 0
  else
    let len := s.lenOf (pr.headD 0)
    checkSizes s pr len
    .ok len

/-- `S`: the first D present slots, lowest indices first (43 R395). -/
def State.sourceSlots (s : State) : List Nat := (s.presentSlots s.nTotal.toNat).take s.nData.toNat

/-- `DM`, the decode matrix (43 R395). -/
def State.decodeMatrix (s : State) : Mat := s.cm.submatrix s.sourceSlots (List.range s.nData.toNat)

/-- `recover(j)` (43 R396). -/
def State.recover (s : State) (inv : Mat) (len j : Nat) : List Byte :=
  combine s.nData.toNat len (fun a => inv.at j a) (fun a => s.buf (s.sourceSlots.getD a 0) len)

/-- `data[j]`: a present data slot's own bytes, else the recovered ones (43 R395). -/
def State.dataOf (s : State) (inv : Mat) (len j : Nat) : List Byte :=
  if s.isPresent j then s.buf j len else s.recover inv len j

/-- What RECONSTRUCT writes into absent slot i (43 R395). -/
def State.restored (s : State) (inv : Mat) (len i : Nat) : List Byte :=
  if i < s.nData.toNat then s.dataOf inv len i
  else combine s.nData.toNat len (fun j => s.cm.at i j) (fun j => s.dataOf inv len j)

/-- The updates of RECONSTRUCT: bytes, SHARD_LEN and PRESENT of every absent slot (43 R395). -/
def State.reconstructShards (s : State) (inv : Mat) (len : Nat) : State :=
  let ab := s.absentSlots s.nTotal.toNat
  { s with shmem := s.writeSlots (fun i => s.restored inv len i) s.shmem ab,
           shardLen := setLens s.shardLen ab (BitVec.ofNat 32 len),
           present := setPresent s.present ab }

/-- The rule of RECONSTRUCT (43 R395). -/
def reconstructRule (s : State) : Except CmdError State := do
  let len ← reconstructChecks s
  if (s.presentSlots s.nTotal.toNat).length = s.nTotal.toNat then .ok s
  else
    checkBounds s s.allSlots len
    checkOverlap s s.allSlots (s.absentSlots s.nTotal.toNat) len
    match s.decodeMatrix.invert with
    | .singular c => raise .singularMatrix c
    | .matrix inv => .ok (s.reconstructShards inv len)

/-- RECONSTRUCT (43 R395). -/
def execReconstruct (s : State) : Result := complete s (reconstructRule s)

end Sys2Proof.Machine
end

