-- ==== Sys2Proof/Machine/Utilities.lean ====
section
/-! DEFINITION. The shard-utility commands (44_shard_utilities.md). N is SHARD_COUNT here, not NTOTAL. -/

namespace Sys2Proof.Machine

/-- `BYTE_COUNT <- v` (10 R51). -/
def State.setByteCount (s : State) (v : Word) : State := { s with byteCount := v }

/-- The rule of BYTECOUNT (44 R450). -/
def byteCountRule (f0 : Bool) (s : State) : Except CmdError State :=
  if f0 then
    if s.hint = 0#32 then raise .invalidShardSize 0 else .ok (s.setByteCount s.hint)
  else if s.shardCount = 0#32 then raise .tooFewShards 0
  else .ok (s.setByteCount s.shardLen[0])

/-- BYTECOUNT (44 R450). -/
def execByteCount (f0 : Bool) (s : State) : Result := complete s (byteCountRule f0 s)

/-- The rule of BYTECOUNT_OPT (44 R451). -/
def byteCountOptRule (f0 : Bool) (s : State) : Except CmdError State := do
  checkTableSize s
  if f0 = true ∧ s.hint = 0#32 then raise .invalidShardSize 0
  else
    match s.presentSlots s.shardCount.toNat with
    | [] => raise .tooFewShards 0
    | f :: _ => .ok (s.setByteCount (if f0 then s.hint else s.shardLen[f]?.getD 0#32))

/-- BYTECOUNT_OPT (44 R451). -/
def execByteCountOpt (f0 : Bool) (s : State) : Result := complete s (byteCountOptRule f0 s)

/-- The rule of MARK_ALL_PRESENT (44 R452). -/
def markAllPresentRule (s : State) : Except CmdError State := do
  checkTableSize s
  .ok { s with present := setPresent s.present (List.range s.shardCount.toNat) }

/-- MARK_ALL_PRESENT (44 R452). -/
def execMarkAllPresent (s : State) : Result := complete s (markAllPresentRule s)

/-- The rule of CHECK_ALL_PRESENT (44 R453). -/
def checkAllPresentRule (s : State) : Except CmdError State := do
  checkTableSize s
  checkPresent s (List.range s.shardCount.toNat)
  .ok s

/-- CHECK_ALL_PRESENT (44 R453). -/
def execCheckAllPresent (s : State) : Result := complete s (checkAllPresentRule s)

/-- The rule of CHECK_WINDOW (44 R454); sums are computed without wrap. -/
def checkWindowRule (f0 f1 : Bool) (s : State) : Except CmdError State := do
  checkTableSize s
  let n := s.shardCount.toNat
  let start := if f0 then s.winStart.toNat else 0
  if start > n then raise .tooFewShards 0
  else
    let count := if f1 then s.winCount.toNat else n - start
    if start + count > n then raise .tooFewShards 0
    else
      checkPresent s (List.range' start count)
      .ok s

/-- CHECK_WINDOW (44 R454). -/
def execCheckWindow (f0 f1 : Bool) (s : State) : Result := complete s (checkWindowRule f0 f1 s)

/-- The rule of COUNT_PRESENT (44 R455). -/
def countPresentRule (s : State) : Except CmdError State := do
  checkTableSize s
  .ok { s with presentCount := BitVec.ofNat 9 (s.presentSlots s.shardCount.toNat).length }

/-- COUNT_PRESENT (44 R455). -/
def execCountPresent (s : State) : Result := complete s (countPresentRule s)

end Sys2Proof.Machine
end

