-- ==== Sys2Proof/Machine/Dispatch.lean ====
section
/-! DEFINITION. One arm per command: the meaning it calls (30_encoding.md R154). -/

namespace Sys2Proof.Machine

/-- The completion step of a command (40 R201-R205). -/
def exec (i : Instr) (s : State) : Host.Outcome State Fault Refusal :=
  match i with
  | .configure => Sys2Proof.Machine.execConfigure s
  | .encode => Sys2Proof.Machine.execEncode s
  | .verify => Sys2Proof.Machine.execVerify s
  | .reconstruct => Sys2Proof.Machine.execReconstruct s
  | .byteCount f0 => Sys2Proof.Machine.execByteCount f0 s
  | .byteCountOpt f0 => Sys2Proof.Machine.execByteCountOpt f0 s
  | .markAllPresent => Sys2Proof.Machine.execMarkAllPresent s
  | .checkAllPresent => Sys2Proof.Machine.execCheckAllPresent s
  | .checkWindow f0 f1 => Sys2Proof.Machine.execCheckWindow f0 f1 s
  | .countPresent => Sys2Proof.Machine.execCountPresent s
  | .gfAdd => Sys2Proof.Machine.execGfAdd s
  | .gfSub => Sys2Proof.Machine.execGfSub s
  | .gfMul => Sys2Proof.Machine.execGfMul s
  | .gfDiv => Sys2Proof.Machine.execGfDiv s
  | .gfExp => Sys2Proof.Machine.execGfExp s
  | .matNew md => Sys2Proof.Machine.execMatNew md s
  | .matIdentity md => Sys2Proof.Machine.execMatIdentity md s
  | .matVandermonde md => Sys2Proof.Machine.execMatVandermonde md s
  | .matMul md ma mb => Sys2Proof.Machine.execMatMul md ma mb s
  | .matAugment md ma mb => Sys2Proof.Machine.execMatAugment md ma mb s
  | .matSubmatrix md ma => Sys2Proof.Machine.execMatSubmatrix md ma s
  | .matInvert md ma => Sys2Proof.Machine.execMatInvert md ma s
  | .matLoadCm md => Sys2Proof.Machine.execMatLoadCm md s

end Sys2Proof.Machine
end

