-- ==== Sys2Proof/Machine/Cycle.lean ====
section
/-! DEFINITION. The agents' steps (40_command_cycle.md R199-R202) and which move comes next (70_reset_and_hazards.md
R551, R570). -/

namespace Sys2Proof.Machine

/-- The engine's step (40 R201, R202): enabled iff BUSY = 1, it executes the word in CMD; a word of no row is
ILLEGAL_COMMAND (40 R213). With BUSY = 0 it has no enabled step (60 R525). -/
def engineStep (s : State) : Result :=
  if s.busy then
    match decode s.cmd with
    | .ok i => exec i s
    | .error _ => completeIllegal s
  else .next s

/-- A move, once it is taken from the list. -/
def performMove : Move → State → Result
  | .access a, s => hostAccess a s
  | .attempt a, s => hostAttempt a s
  | .check offset mask value, s =>
    match hostRead 32 offset s with
    | .next t => .next (t.noteCheck mask value)
    | .fault f => .fault f
    | .refused r => .refused r
  | .wait, s => hostRead 32 Loc.status.offset s
  | .engine, s => engineStep s
  | .reset, s => .next s.hardReset

/-- The next move. With no move left the engine, if it is enabled, completes (weak fairness, 70 R570), else nothing is
enabled and nothing happens (60 R525). `wait` with BUSY = 1 polls, without effect, until the engine has completed
(30 R173); with BUSY = 0 its read of STATUS ends it. Log 3. -/
def nextMove (s : State) : Result :=
  match s.host.moves with
  | [] => engineStep s
  | .wait :: ms => if s.busy then engineStep s else performMove .wait (s.withMoves ms)
  | m :: ms => performMove m (s.withMoves ms)

/-- `s` with the CMD write of `w` done (40 R200) and the engine's step next. Log 4. -/
def State.issueNext (s : State) (w : Word) : State := (s.issue w).withMoves (.engine :: s.host.moves)

end Sys2Proof.Machine
end

