-- ==== Sys2Proof/Machine/Step.lean ====
section
/-! DEFINITION. One step of the machine, and how a command word is put where the next step runs it. -/

namespace Sys2Proof.Machine

/-- One step: the next move of the host, the engine or the platform (40 R199). -/
def step (s : State) : Host.Outcome State Fault Refusal := nextMove s

/-- The RSE fetches no instructions (10 R32): a command runs because a host has written its word to CMD. This is that
write (40 R200), with the engine's step next. Log 4. -/
def State.withFetchWord (s : State) (nbits w : Nat) : State := s.issueNext (BitVec.ofNat 32 (w % 2 ^ nbits))

end Sys2Proof.Machine
end

