-- ==== Sys2Proof/Safety.lean ====
section
/-! DEFINITION. What claims mean by a safe step, runs of steps, the end of a command and of a script, and the invariant of
the RSE. -/

namespace Sys2Proof.Machine

/-- The step answers a next state: no host access of it gets a bus error (60 R507). -/
def State.StepSafe (s : State) : Prop := ∃ t, step s = .next t

/-- `k` steps, all safe, lead from one state to another. -/
def StepsTo : Nat → State → State → Prop
  | 0, s, t => s = t
  | k + 1, s, t => ∃ u, step s = .next u ∧ StepsTo k u t

/-- The last issued command has ended: its completion step has set BUSY to 0 and DONE to 1 (40 R216). -/
def State.commandEnded (s : State) : Bool := !s.busy && s.done

/-- The move is the host's, so of a statement of its script (30 R170-R174); the engine's step and the reset input are
other agents' moves (40 R199, 70 R551). -/
def Move.isHost : Move → Bool
  | .access _ | .attempt _ | .check _ _ _ | .wait => true
  | .engine | .reset => false

/-- The script has ended: its last statement is done, so no move left is the host's (40 R216). A command it issued and did
not wait for may be pending. -/
def State.scriptEnded (s : State) : Bool := s.host.moves.all fun m => !m.isHost

/-- SHMEM_SIZE is a legal parameter (00 R10). -/
def legalShmemSize (n : Nat) : Prop := n % 4 = 0 ∧ 4 ≤ n ∧ n ≤ 0x1000000

/-- What ERR_CODE may hold (60 R500): NONE or a code of the table. -/
def legalErrCode (c : Byte) : Prop := c = errNone ∨ ∃ e : ErrCode, c = e.value

/-- The invariant of the RSE: what the prose of the spec says of every moment. -/
structure State.Inv (s : State) : Prop where
  /-- the parameter is legal (00 R10) -/
  size : legalShmemSize s.shmemSize
  /-- shard memory is in canonical form (log 2) -/
  shmemWf : s.shmem.wf = true
  /-- and lies inside 0..SHMEM_SIZE (10 R63, 20 R113) -/
  shmemInside : ∀ c ∈ s.shmem, c.1 < s.shmemSize
  /-- "NTOTAL = NDATA + NPARITY holds at every moment" (10 R40) -/
  total : s.nTotal.toNat = s.nData.toNat + s.nParity.toNat
  /-- while CONFIGURED = 0 the counts are 0 and CM holds no matrix (10 R37) -/
  unconfigured : s.configured = false → s.nData = 0#32 ∧ s.nParity = 0#32 ∧ s.nTotal = 0#32 ∧ s.cm = Mat.undefined
  /-- once configured the counts are in range and CM is the coding matrix of NDATA and NPARITY (43 R380, R382) -/
  configuredAs : s.configured = true → 1 ≤ s.nData.toNat ∧ 1 ≤ s.nParity.toNat ∧ s.nTotal.toNat ≤ 256 ∧
    codingMatrix s.nData.toNat s.nParity.toNat = .matrix s.cm
  /-- every matrix register holds a matrix within the capacity or none, ROWS = 0 iff COLS = 0 (10 R61, R62) -/
  matsWf : ∀ m : MatReg, (s.mat m).wf = true
  /-- "No other value ever appears in ERR_CODE" (60 R500) -/
  errCodeLegal : legalErrCode s.errCode
  /-- between issue and completion DONE, ERR, ERR_CODE and ERR_INFO are 0 (10 R35, R36; 70 R562) -/
  busyClear : s.busy = true → s.done = false ∧ s.err = false
  /-- ERR says whether ERR_CODE holds an error, and a report without one has no detail (10 R43, R44) -/
  errReport : (s.err = true ↔ s.errCode ≠ errNone) ∧ (s.err = false → s.errInfo = 0#32)
  /-- ERR is set only by a completion (10 R36) -/
  errDone : s.err = true → s.done = true
  /-- PRESENT_COUNT is in 0..256 (44 R455) -/
  presentCountRange : s.presentCount.toNat ≤ 256

end Sys2Proof.Machine
end

