-- ==== Sys2Proof/Certificates/Slice0/Obligations.lean ====
section
/-! DEFINITION. The statements about the RSE, and the words they are written in. -/

namespace Sys2Proof.Claims

open Sys2Proof.Machine

/-! ### Words of the statements -/

/-- The state a successful completion leaves of the updated state `t` (40 R204). -/
def finished (t : State) : State :=
  { t with busy := false, done := true, err := false, errCode := 0x00#8, errInfo := 0#32, doneIp := true }

/-- The state a completion with `Err(code, info)` leaves (40 R205). -/
def failed (s : State) (code : Byte) (info : Nat) : State :=
  { s with busy := false, done := true, err := true, errCode := code, errInfo := BitVec.ofNat 32 info, doneIp := true }

/-- `s` with the bus's answer to the host (the model's record of the host agent, log 3). -/
def answered (s : State) (r : Response) : State := { s with host := { s.host with response := r } }

/-- `i` is the least number of `lo..hi` with the property. -/
abbrev IsFirst (p : Nat → Prop) (lo hi i : Nat) : Prop := lo ≤ i ∧ i < hi ∧ p i ∧ ∀ j, j < i → lo ≤ j → ¬ p j

/-- The field sum of `f 0`, ..., `f (n-1)` (00 R17). -/
def fieldSum (f : Nat → Byte) : Nat → Byte
  | 0 => 0#8
  | n + 1 => fieldSum f n ^^^ f n

/-- `a` raised to the power `n`: n factors, none gives 1 (41 R256). -/
def power (a : Byte) : Nat → Byte
  | 0 => 0x01#8
  | n + 1 => gfMul (power a n) a

/-- `x` is the `r` x `c` matrix with these elements (42 R300). -/
def Elems (x : Mat) (r c : Nat) (f : Nat → Nat → Byte) : Prop :=
  x.rows = r ∧ x.cols = c ∧ ∀ i j, i < r → j < c → x.at i j = f i j

/-- The requested size is accepted (42 R303). -/
abbrev dimsFit (r c : Nat) : Prop := 1 ≤ r ∧ r ≤ 256 ∧ 1 ≤ c ∧ c ≤ 512

/-- The slot's presence bit is 1 (10 R53). -/
abbrev here (s : State) (i : Nat) : Prop := s.present.getLsbD i = true

/-- N of the coder rules: NTOTAL (00 R23). -/
abbrev total (s : State) : Nat := s.nTotal.toNat

/-- D of the coder rules: NDATA (00 R23). -/
abbrev data (s : State) : Nat := s.nData.toNat

/-- Configured, and the collection has exactly NTOTAL shards (40 R206, R207). -/
abbrev counted (s : State) : Prop := s.configured = true ∧ s.shardCount = s.nTotal

/-- The slot's length is 0 or not `len` (40 R210). -/
abbrev sizeBad (s : State) (len i : Nat) : Prop := s.lenOf i = 0 ∨ s.lenOf i ≠ len

/-- The slot's buffer of `len` bytes ends past SHMEM_SIZE (40 R208). -/
abbrev endsPast (s : State) (len i : Nat) : Prop := s.addrOf i + len > s.shmemSize

/-- The slot's buffer overlaps another slot's buffer (40 R209). -/
abbrev overlaps (s : State) (len i : Nat) : Prop :=
  ∃ j, j < total s ∧ j ≠ i ∧ s.addrOf i < s.addrOf j + len ∧ s.addrOf j < s.addrOf i + len

/-- The checks of VERIFY pass, with common length `len` (43 R393). -/
structure Ready (s : State) (len : Nat) : Prop where
  counted : counted s
  first : s.lenOf 0 = len
  sizes : ∀ i, i < total s → ¬ sizeBad s len i
  bounds : ∀ i, i < total s → ¬ endsPast s len i

/-- The address lies in the buffer of the slot. -/
abbrev inBuffer (s : State) (len i a : Nat) : Prop := s.addrOf i ≤ a ∧ a < s.addrOf i + len

/-- Byte `k` of `parity(r, L)` (43 R391). -/
def parityByte (s : State) (r k : Nat) : Byte :=
  fieldSum (fun j => gfMul (s.cm.at r j) (s.byteAt (s.addrOf j + k))) (data s)

/-- `PR` of RECONSTRUCT (43 R395). -/
def presentList (s : State) : List Nat := (List.range (total s)).filter fun i => s.present.getLsbD i

/-- The checks (1) to (4) of RECONSTRUCT pass, with common length `len` (43 R395). D >= 1 holds in every state of the
invariant (10 R30). -/
structure Recoverable (s : State) (len : Nat) : Prop where
  counted : counted s
  some : 1 ≤ data s
  enough : data s ≤ (presentList s).length
  sizes : ∀ i, i < total s → here s i → ¬ sizeBad s len i

/-- Byte `k` of data shard `j` as RECONSTRUCT knows it (43 R395, R396). -/
def dataByte (s : State) (inv : Mat) (j k : Nat) : Byte :=
  if s.present.getLsbD j then s.byteAt (s.addrOf j + k)
  else fieldSum (fun a => gfMul (inv.at j a) (s.byteAt (s.addrOf ((presentList s).getD a 0) + k))) (data s)

/-- The offset is mapped (20 R101, R102). -/
abbrev mapped (s : State) (o : Nat) : Prop :=
  o < 0x0068 ∨ (0x0070 ≤ o ∧ o < 0x0080) ∨ (0x0100 ≤ o ∧ o < 0x0120) ∨ (0x0400 ≤ o ∧ o < 0x0600) ∨
    (0x0800 ≤ o ∧ o < 0x1C00) ∨ (0x10000 ≤ o ∧ o < 0x20000) ∨ (0x100000 ≤ o ∧ o < 0x180000) ∨
    (0x1000000 ≤ o ∧ o < 0x2000000 ∧ o < 0x1000000 + s.shmemSize)

/-- The offset is a word of the CM window outside CM (20 R111). -/
abbrev outsideCm (s : State) (o : Nat) : Prop :=
  0x10000 ≤ o ∧ o < 0x20000 ∧
    ¬((o - 0x10000) / 0x100 < s.nTotal.toNat ∧ (o - 0x10000) % 0x100 < s.nData.toNat)

/-- The offset is a word of a matrix register's window outside the matrix (20 R111). -/
abbrev outsideMat (s : State) (o : Nat) : Prop :=
  ∃ m : MatReg, 0x100000 + 0x20000 * m.val ≤ o ∧ o < 0x100000 + 0x20000 * (m.val + 1) ∧
    ¬((o - 0x100000) % 0x20000 / 0x200 < (s.mat m).rows ∧ (o - 0x100000) % 0x200 < (s.mat m).cols)

/-- A host access of `bits` bits at offset `o` gets a bus error (60 R508); `opened` says whether it is open while
BUSY = 1 (20 R106). -/
abbrev busErrorDue (s : State) (opened : Prop) (bits o : Nat) : Prop :=
  bits ≠ 32 ∨ o % 4 ≠ 0 ∨ ¬ mapped s o ∨ (s.busy = true ∧ ¬ opened) ∨ outsideCm s o ∨ outsideMat s o

/-- The offset of a read-only location, the CM window apart (20 R107). -/
abbrev readOnlyOffset (o : Nat) : Prop :=
  o ∈ [0x0000, 0x0004, 0x0008, 0x000C, 0x0014, 0x0018, 0x002C, 0x0030, 0x0034, 0x0048, 0x004C, 0x005C] ∨
    (o % 4 = 0 ∧ ((0x0070 ≤ o ∧ o < 0x0080) ∨ (0x0400 ≤ o ∧ o < 0x0600)))

/-- The implemented bits of the register at a read-write offset (20 R108, 10 R42-R60). -/
def implementedBits (o : Nat) : Option Word :=
  if o ∈ [0x0010, 0x0024, 0x0028, 0x0038, 0x003C, 0x0040, 0x0044, 0x0058] then some 0xFFFFFFFF#32
  else if o = 0x001C then some 0x00000001#32
  else if o ∈ [0x0050, 0x0054] then some 0x000000FF#32
  else if o ∈ [0x0060, 0x0064] then some 0x0000FFFF#32
  else if o % 4 = 0 ∧ ((0x0100 ≤ o ∧ o < 0x0120) ∨ (0x0800 ≤ o ∧ o < 0x1000)) then some 0xFFFFFFFF#32
  else if o % 4 = 0 ∧ 0x1000 ≤ o ∧ o < 0x1C00 then some 0x0000FFFF#32
  else none

/-- A 32-bit host read at this offset completes with this data (the record of the answer is the model's, log 3). -/
abbrev reads (s : State) (o : Nat) (v : Word) : Prop := hostRead 32 o s = .next (answered s (.data v))

/-- Column `c` is a combination of the columns before it, so zero for `c = 0` (42 R316). -/
abbrev dependentColumn (x : Mat) (c : Nat) : Prop :=
  ∃ f : Nat → Byte, ∀ i, i < x.rows → x.at i c = fieldSum (fun k => gfMul (f k) (x.at i k)) c

/-- Every error code a command can report, by the "raised by" column of 60 R500. -/
def errorsOf : Instr → List Byte
  | .configure => [0x04#8, 0x05#8]
  | .encode => [0x01#8, 0x02#8, 0x03#8, 0x11#8, 0x12#8, 0x13#8]
  | .verify => [0x01#8, 0x02#8, 0x03#8, 0x11#8, 0x12#8]
  | .reconstruct => [0x01#8, 0x02#8, 0x03#8, 0x05#8, 0x11#8, 0x12#8, 0x13#8]
  | .byteCount _ => [0x01#8, 0x07#8]
  | .byteCountOpt _ => [0x01#8, 0x02#8, 0x07#8]
  | .markAllPresent => [0x02#8]
  | .checkAllPresent => [0x02#8, 0x17#8]
  | .checkWindow _ _ => [0x01#8, 0x02#8, 0x17#8]
  | .countPresent => [0x02#8]
  | .gfAdd | .gfSub | .gfMul | .gfExp => []
  | .gfDiv => [0x14#8]
  | .matNew _ | .matIdentity _ | .matVandermonde _ => [0x15#8]
  | .matMul _ _ _ | .matAugment _ _ _ => [0x06#8, 0x15#8]
  | .matSubmatrix _ _ => [0x15#8, 0x16#8]
  | .matInvert _ _ => [0x05#8, 0x06#8, 0x15#8]
  | .matLoadCm _ => [0x11#8]

/-- The matrix register a command has as its destination (30 R152, R154). -/
def destination : Instr → Option MatReg
  | .matNew d | .matIdentity d | .matVandermonde d | .matMul d _ _ | .matAugment d _ _ | .matSubmatrix d _
  | .matInvert d _ | .matLoadCm d => some d
  | _ => none

/-- Every register has its reset value (70 R550), SHMEM and the pending command apart. -/
structure ResetValues (s : State) : Prop where
  status : s.busy = false ∧ s.done = false ∧ s.err = false ∧ s.configured = false ∧ s.verifyOk = false
  report : s.cmd = 0#32 ∧ s.errCode = 0#8 ∧ s.errInfo = 0#32
  interrupt : s.doneIe = false ∧ s.doneIp = false
  config : s.cfgD = 0#32 ∧ s.cfgP = 0#32 ∧ s.nData = 0#32 ∧ s.nParity = 0#32 ∧ s.nTotal = 0#32
  collection : s.shardCount = 0#32 ∧ s.hint = 0#32 ∧ s.winStart = 0#32 ∧ s.winCount = 0#32
  results : s.byteCount = 0#32 ∧ s.presentCount = 0#9
  alu : s.aluA = 0#8 ∧ s.aluB = 0#8 ∧ s.aluN = 0#32 ∧ s.aluR = 0#8
  matArgs : s.matArgRows = 0#16 ∧ s.matArgCols = 0#16
  codingMatrix : s.cm.rows = 0 ∧ s.cm.cols = 0
  mats : ∀ m : MatReg, (s.mat m).rows = 0 ∧ (s.mat m).cols = 0
  presence : ∀ i, i < 256 → s.present.getLsbD i = false
  descriptors : ∀ i : Fin 256, s.shardAddr[i.val] = 0#32 ∧ s.shardLen[i.val] = 0#32
  rowList : ∀ i : Fin 256, s.idxR[i.val] = 0#16
  colList : ∀ j : Fin 512, s.idxC[j.val] = 0#16
  irq : s.irq = false

end Sys2Proof.Claims

section Statements

open Sys2Proof Sys2Proof.Machine Sys2Proof.Claims

/-! ### Encoding -/

/-- Decoding a command's word gives the command back, for every command and every value of its fields. -/
def Obligations.DecodeEncodeRoundTrip : Prop := ∀ i : Instr, decode (encode i) = .ok i

/-- A word that decodes is the word of the command it decodes to: no bit of a legal word is ignored (30 R152). -/
def Obligations.LegalWordIsItsCommandsWord : Prop := ∀ (w : Word) (i : Instr), decode w = .ok i → encode i = w

/-- A word is legal iff its opcode has a row and every field the row's format does not use is 0 (30 R151, R152). -/
def Obligations.LegalWordIffUnusedFieldsZero : Prop :=
  ∀ w : Word, (∃ i, decode w = .ok i) ↔
    ∃ r ∈ opcodeMap, (fieldsOf w).op = r.op ∧ (fieldsOf w).wellFormed r.format = true

/-- Decoding selects the one row whose `(w AND mask) = match`, or no row (30 R155). -/
def Obligations.DecodeSelectsTheMatchingRow : Prop :=
  ∀ w : Word,
    (∀ r ∈ opcodeMap, ∀ q ∈ opcodeMap, w &&& r.format.mask = r.matchWord → w &&& q.format.mask = q.matchWord →
      r.mnemonic = q.mnemonic) ∧
    (∀ r ∈ opcodeMap, w &&& r.format.mask = r.matchWord → decode w = .ok (r.build (fieldsOf w))) ∧
    ((∀ r ∈ opcodeMap, w &&& r.format.mask ≠ r.matchWord) → ∃ e, decode w = .error e)

/-- The encoding examples (30 R157). -/
def Obligations.ExampleWordsDecode : Prop :=
  decode 0x00001233#32 = .ok (.matMul 2 0 1) ∧ decode 0x00000D36#32 = .ok (.matInvert 1 3) ∧
  decode 0x00010010#32 = .ok (.byteCount true) ∧ decode 0x00030014#32 = .ok (.checkWindow true true) ∧
  decode 0x00020014#32 = .ok (.checkWindow false true) ∧ decode 0x00000102#32 = .error (.nonzeroUnusedBits "ENCODE")

/-! ### The command cycle -/

/-- A step takes the next move. A step of a busy engine runs the command its CMD word decodes to: where the engine is
scheduled next, where the host waits, and where no move is left; and so does the step after a CMD write that a program's
word stands for. A step of the host is its next access, a read it compares with a value, or, with BUSY = 0, the read of
STATUS that ends a wait. With BUSY = 0 the engine does nothing. That the order of moves is data of the state, and what the
host remembers, are the model's (log 3), as are `withFetchWord` (log 4) and `attempt` (log 5). -/
def Obligations.StepRunsTheDecodedCommand : Prop :=
  (∀ (s : State) (i : Instr) (ms : List Move), s.busy = true → decode s.cmd = .ok i →
    (s.host.moves = .engine :: ms → step s = exec i { s with host := { s.host with moves := ms } }) ∧
    (s.host.moves = .wait :: ms → step s = exec i s) ∧ (s.host.moves = [] → step s = exec i s)) ∧
  (∀ (s : State) (w : Word) (i : Instr), s.busy = false → decode w = .ok i →
    step (s.withFetchWord 32 w.toNat) = exec i (s.issue w)) ∧
  (∀ (s : State) (ms : List Move), s.busy = false →
    (s.host.moves = .engine :: ms → step s = .next { s with host := { s.host with moves := ms } }) ∧
    (s.host.moves = .wait :: ms → step s = hostRead 32 0x000C { s with host := { s.host with moves := ms } }) ∧
    (s.host.moves = [] → step s = .next s)) ∧
  ∀ (s u : State) (a : Access) (o : Nat) (mask value v : Word) (ms : List Move),
    u = { s with host := { s.host with moves := ms } } →
    (s.host.moves = .access a :: ms → step s = match a with
      | .read bits p => hostRead bits p u
      | .write bits p w => hostWrite bits p w u) ∧
    (s.host.moves = .attempt a :: ms → step s = hostAttempt a u ∧
      ∀ t, hostAccess a u = .next t → hostAttempt a u = .next t) ∧
    (s.host.moves = .check o mask value :: ms →
      (∀ f, hostRead 32 o u = .fault f → step s = .fault f) ∧
      (reads u o v → step s = .next { u with host :=
        ⟨ms, .data v, s.host.checkFailed || decide (v &&& mask ≠ value &&& mask)⟩ }))

/-- A word that decodes to no row completes with ILLEGAL_COMMAND(0) and writes nothing else (40 R213). Which step is the
engine's, that of a waiting host and that with no move left among them, is the model's choice (log 3). -/
def Obligations.IllegalWordReportsIllegalCommand : Prop :=
  ∀ (s : State) (ms : List Move), s.busy = true → (∀ i, decode s.cmd ≠ .ok i) →
    (s.host.moves = .engine :: ms → step s = .next (failed { s with host := { s.host with moves := ms } } 0x10#8 0)) ∧
    (s.host.moves = .wait :: ms → step s = .next (failed s 0x10#8 0)) ∧
    (s.host.moves = [] → step s = .next (failed s 0x10#8 0))

/-- A CMD write with BUSY = 0 issues any word, legal or not; with BUSY = 1 it gets a bus error (40 R200). -/
def Obligations.CmdWriteIssues : Prop :=
  ∀ (s : State) (w : Word),
    (s.busy = false → hostWrite 32 0x0010 w s =
      .next (answered { s with cmd := w, busy := true, done := false, err := false, errCode := 0x00#8,
                               errInfo := 0#32 } .done)) ∧
    (s.busy = true → hostWrite 32 0x0010 w s = .fault (.busError .busy 0x0010))

/-- Every command completes, whatever the state: BUSY 0, DONE 1, DONE_IP 1, CMD kept, and with no error a clear report.
A pending command, legal or not, completes at the next step the engine gets, and a host that waits gives it that
step (70 R570; which step that is, is the model's list of moves, log 3). -/
def Obligations.EveryCommandCompletes : Prop :=
  (∀ (i : Instr) (s : State), ∃ t, exec i s = .next t ∧ t.busy = false ∧ t.done = true ∧ t.doneIp = true ∧
    t.cmd = s.cmd ∧ (t.err = false → t.errCode = 0x00#8 ∧ t.errInfo = 0#32)) ∧
  ∀ (s : State) (ms : List Move), s.busy = true →
    s.host.moves = .engine :: ms ∨ s.host.moves = .wait :: ms ∨ s.host.moves = [] →
    ∃ t, step s = .next t ∧ t.busy = false ∧ t.done = true ∧ t.doneIp = true ∧ t.cmd = s.cmd

/-- A command that fails writes its error report and nothing else (40 R205, 60 R503). -/
def Obligations.FailedCommandWritesOnlyItsReport : Prop :=
  ∀ (i : Instr) (s t : State), exec i s = .next t → t.err = true → ∃ code info, t = failed s code info

/-- A command reports only codes of its own checks (60 R500, the "raised by" column), never NONE as an error. -/
def Obligations.CommandReportsOnlyItsOwnCodes : Prop :=
  ∀ (i : Instr) (s t : State), exec i s = .next t → t.err = true → t.errCode ∈ errorsOf i ∧ t.errCode ≠ 0x00#8

/-- A command that failed and is issued again with the same inputs fails the same way (40 R212). -/
def Obligations.FailureRepeats : Prop :=
  ∀ (i : Instr) (s t : State), exec i s = .next t → t.err = true →
    ∃ u, exec i (t.issue s.cmd) = .next u ∧ u.err = true ∧ u.errCode = t.errCode ∧ u.errInfo = t.errInfo

/-- No command writes a register that only the host writes (10 R45, R47-R50, R55, R56, R59, R60), SHARD_ADDR, or CMD. -/
def Obligations.CommandsKeepHostWrittenRegisters : Prop :=
  ∀ (i : Instr) (s t : State), exec i s = .next t →
    t.cmd = s.cmd ∧ t.doneIe = s.doneIe ∧ t.cfgD = s.cfgD ∧ t.cfgP = s.cfgP ∧ t.shardCount = s.shardCount ∧
    t.hint = s.hint ∧ t.winStart = s.winStart ∧ t.winCount = s.winCount ∧ t.shardAddr = s.shardAddr ∧
    t.aluA = s.aluA ∧ t.aluB = s.aluB ∧ t.aluN = s.aluN ∧ t.matArgRows = s.matArgRows ∧
    t.matArgCols = s.matArgCols ∧ t.idxR = s.idxR ∧ t.idxC = s.idxC ∧ t.shmemSize = s.shmemSize ∧
    t.resets = s.resets ∧ t.host = s.host

/-- Each result and each part of the configuration has its one writer among the commands (10 R37, R38, R40, R41, R51,
R52, R57). -/
def Obligations.ResultsHaveTheirOwnWriters : Prop :=
  ∀ (i : Instr) (s t : State), exec i s = .next t →
    (i ≠ .configure → t.configured = s.configured ∧ t.nData = s.nData ∧ t.nParity = s.nParity ∧
      t.nTotal = s.nTotal ∧ t.cm = s.cm) ∧
    (s.configured = true → t.configured = true) ∧
    (i ≠ .verify ∨ t.err = true → t.verifyOk = s.verifyOk) ∧
    ((∀ f, i ≠ .byteCount f ∧ i ≠ .byteCountOpt f) ∨ t.err = true → t.byteCount = s.byteCount) ∧
    (i ≠ .countPresent ∨ t.err = true → t.presentCount = s.presentCount) ∧
    (i ∉ [.gfAdd, .gfSub, .gfMul, .gfDiv, .gfExp] ∨ t.err = true → t.aluR = s.aluR)

/-- Only ENCODE and RECONSTRUCT write shard memory, only RECONSTRUCT writes SHARD_LEN, only RECONSTRUCT and
MARK_ALL_PRESENT write PRESENT and they clear no bit, and a matrix register changes only as a destination
(10 R53, R54, R61-R63). -/
def Obligations.ShardAndMatrixWriters : Prop :=
  ∀ (i : Instr) (s t : State), exec i s = .next t →
    (i ≠ .encode → i ≠ .reconstruct → ∀ a, t.byteAt a = s.byteAt a) ∧
    (i ≠ .reconstruct → t.shardLen = s.shardLen) ∧
    (i ≠ .reconstruct → i ≠ .markAllPresent → t.present = s.present) ∧
    (∀ k, here s k → here t k) ∧
    ∀ m : MatReg, destination i ≠ some m ∨ t.err = true → t.mat m = s.mat m

/-- The outcome of a command that is not ENCODE, VERIFY or RECONSTRUCT does not depend on shard memory (10 R63). -/
def Obligations.OtherCommandsIgnoreShardMemory : Prop :=
  ∀ (i : Instr) (s t : State) (m : Memory) (n : Nat), i ≠ .encode → i ≠ .verify → i ≠ .reconstruct →
    exec i s = .next t → exec i { s with shmem := m, resets := n } = .next { t with shmem := m, resets := n }

/-! ### Field unit -/

/-- GF_ADD and GF_SUB (41 R270, R271). -/
def Obligations.GfAddAndGfSub : Prop :=
  decode 0x00000020#32 = .ok .gfAdd ∧ decode 0x00000021#32 = .ok .gfSub ∧
  ∀ s : State, exec .gfAdd s = .next (finished { s with aluR := s.aluA ^^^ s.aluB }) ∧
    exec .gfSub s = .next (finished { s with aluR := s.aluA ^^^ s.aluB })

/-- GF_MUL, by the table form of the product (41 R254, R272). -/
def Obligations.GfMulIsTheTableProduct : Prop :=
  decode 0x00000022#32 = .ok .gfMul ∧
  ∀ s : State, exec .gfMul s = .next (finished { s with
    aluR := if s.aluA = 0x00#8 ∨ s.aluB = 0x00#8 then 0x00#8
            else expAt ((logAt s.aluA + logAt s.aluB) % 255) })

/-- GF_DIV gives the unique quotient, by the table form too, or DIVIDE_BY_ZERO (41 R255, R273). -/
def Obligations.GfDivIsTheUniqueQuotient : Prop :=
  decode 0x00000023#32 = .ok .gfDiv ∧
  ∀ s : State,
    (s.aluB = 0x00#8 → exec .gfDiv s = .next (failed s 0x14#8 0)) ∧
    (s.aluB ≠ 0x00#8 → ∃ c, exec .gfDiv s = .next (finished { s with aluR := c }) ∧ gfMul c s.aluB = s.aluA ∧
      (∀ d, gfMul d s.aluB = s.aluA → d = c) ∧
      c = if s.aluA = 0x00#8 then 0x00#8 else expAt ((logAt s.aluA + 255 - logAt s.aluB) % 255))

/-- GF_EXP multiplies ALU_N factors of ALU_A, 0^0 = 1 included; and the power is the table form's (41 R256, R274). -/
def Obligations.GfExpIsRepeatedMultiplication : Prop :=
  decode 0x00000024#32 = .ok .gfExp ∧
  (∀ s : State, exec .gfExp s = .next (finished { s with aluR := power s.aluA s.aluN.toNat })) ∧
  ∀ (a : Byte) (n : Nat), power a n =
    if n = 0 then 0x01#8 else if a = 0x00#8 then 0x00#8 else expAt ((logAt a * n) % 255)

/-- The field laws (41 R258). -/
def Obligations.FieldLaws : Prop :=
  (∀ a b c : Byte, a ^^^ b = b ^^^ a ∧ a ^^^ b ^^^ c = a ^^^ (b ^^^ c)) ∧
  (∀ a b : Byte, gfMul a b = gfMul b a) ∧ (∀ a b c : Byte, gfMul (gfMul a b) c = gfMul a (gfMul b c)) ∧
  (∀ a b c : Byte, gfMul a (b ^^^ c) = gfMul a b ^^^ gfMul a c) ∧
  (∀ a : Byte, gfMul a 0x01#8 = a ∧ gfMul a 0x00#8 = 0x00#8 ∧ gfMul a 0x02#8 = xtime a) ∧
  (∀ a : Byte, a ≠ 0x00#8 → (∃ v, gfDiv 0x01#8 a = some v ∧ gfMul a v = 0x01#8) ∧ gfExp a 255 = 0x01#8) ∧
  ∀ (a : Byte) (m n : Nat), gfExp a (m + n) = gfMul (gfExp a m) (gfExp a n)

/-- The EXP and LOG tables (41 R251, R252): EXP by its recurrence, LOG as its inverse, and the two entries the spec
decides, LOG[0] = 0x00 and EXP[255] = 0x01. That the recurrence multiplies by 0x02 is general knowledge in the spec itself
(PRESUMED, log 9). -/
def Obligations.FieldTables : Prop :=
  expTable.length = 256 ∧ logTable.length = 256 ∧ expAt 0 = 0x01#8 ∧ expAt 255 = 0x01#8 ∧
  (∀ i, i < 254 → expAt (i + 1) = xtime (expAt i)) ∧ logAt 0x00#8 = 0 ∧
  ∀ a : Byte, a ≠ 0x00#8 → logAt a < 255 ∧ expAt (logAt a) = a ∧ ∀ i, i < 255 → expAt i = a → i = logAt a

/-! ### Matrix unit -/

/-- MAT_NEW (42 R320). -/
def Obligations.MatNewGivesZeros : Prop :=
  ∀ (d : MatReg) (s : State), decode (0x00000030#32 ||| BitVec.ofNat 32 d.val <<< 8) = .ok (.matNew d) ∧
    (dimsFit s.matArgRows.toNat s.matArgCols.toNat →
      ∃ x, Elems x s.matArgRows.toNat s.matArgCols.toNat (fun _ _ => 0x00#8) ∧
        exec (.matNew d) s = .next (finished { s with mats := s.mats.set d.val x })) ∧
    (¬ dimsFit s.matArgRows.toNat s.matArgCols.toNat → exec (.matNew d) s = .next (failed s 0x15#8 0))

/-- MAT_IDENTITY (42 R321). -/
def Obligations.MatIdentityGivesIdentity : Prop :=
  ∀ (d : MatReg) (s : State), decode (0x00000031#32 ||| BitVec.ofNat 32 d.val <<< 8) = .ok (.matIdentity d) ∧
    (1 ≤ s.matArgRows.toNat ∧ s.matArgRows.toNat ≤ 256 →
      ∃ x, Elems x s.matArgRows.toNat s.matArgRows.toNat (fun r c => if r = c then 0x01#8 else 0x00#8) ∧
        exec (.matIdentity d) s = .next (finished { s with mats := s.mats.set d.val x })) ∧
    (s.matArgRows.toNat = 0 ∨ 256 < s.matArgRows.toNat → exec (.matIdentity d) s = .next (failed s 0x15#8 0))

/-- MAT_VANDERMONDE: row r, column c is r to the power c in the field (42 R311, R322). -/
def Obligations.MatVandermondeGivesPowers : Prop :=
  ∀ (d : MatReg) (s : State), decode (0x00000032#32 ||| BitVec.ofNat 32 d.val <<< 8) = .ok (.matVandermonde d) ∧
    (dimsFit s.matArgRows.toNat s.matArgCols.toNat →
      ∃ x, Elems x s.matArgRows.toNat s.matArgCols.toNat (fun r c => power (BitVec.ofNat 8 r) c) ∧
        exec (.matVandermonde d) s = .next (finished { s with mats := s.mats.set d.val x })) ∧
    (¬ dimsFit s.matArgRows.toNat s.matArgCols.toNat → exec (.matVandermonde d) s = .next (failed s 0x15#8 0))

/-- MAT_MUL, its checks in order (42 R312, R323). -/
def Obligations.MatMulGivesProduct : Prop :=
  ∀ (d a b : MatReg) (s : State),
    decode (0x00000033#32 ||| BitVec.ofNat 32 d.val <<< 8 ||| BitVec.ofNat 32 a.val <<< 10 |||
      BitVec.ofNat 32 b.val <<< 12) = .ok (.matMul d a b) ∧
    ((s.mat a).rows = 0 ∨ (s.mat b).rows = 0 → exec (.matMul d a b) s = .next (failed s 0x15#8 0)) ∧
    ((s.mat a).rows ≠ 0 → (s.mat b).rows ≠ 0 → (s.mat a).cols ≠ (s.mat b).rows →
      exec (.matMul d a b) s = .next (failed s 0x06#8 0)) ∧
    ((s.mat a).rows ≠ 0 → (s.mat b).rows ≠ 0 → (s.mat a).cols = (s.mat b).rows →
      ∃ x, Elems x (s.mat a).rows (s.mat b).cols
          (fun i j => fieldSum (fun k => gfMul ((s.mat a).at i k) ((s.mat b).at k j)) (s.mat a).cols) ∧
        exec (.matMul d a b) s = .next (finished { s with mats := s.mats.set d.val x }))

/-- MAT_AUGMENT, its checks in order (42 R313, R324). -/
def Obligations.MatAugmentJoinsColumns : Prop :=
  ∀ (d a b : MatReg) (s : State),
    decode (0x00000034#32 ||| BitVec.ofNat 32 d.val <<< 8 ||| BitVec.ofNat 32 a.val <<< 10 |||
      BitVec.ofNat 32 b.val <<< 12) = .ok (.matAugment d a b) ∧
    ((s.mat a).rows = 0 ∨ (s.mat b).rows = 0 → exec (.matAugment d a b) s = .next (failed s 0x15#8 0)) ∧
    ((s.mat a).rows ≠ 0 → (s.mat b).rows ≠ 0 → (s.mat a).rows ≠ (s.mat b).rows →
      exec (.matAugment d a b) s = .next (failed s 0x06#8 0)) ∧
    ((s.mat a).rows ≠ 0 → (s.mat b).rows ≠ 0 → (s.mat a).rows = (s.mat b).rows →
      512 < (s.mat a).cols + (s.mat b).cols → exec (.matAugment d a b) s = .next (failed s 0x15#8 0)) ∧
    ((s.mat a).rows ≠ 0 → (s.mat b).rows ≠ 0 → (s.mat a).rows = (s.mat b).rows →
      (s.mat a).cols + (s.mat b).cols ≤ 512 →
      ∃ x, Elems x (s.mat a).rows ((s.mat a).cols + (s.mat b).cols)
          (fun r c => if c < (s.mat a).cols then (s.mat a).at r c else (s.mat b).at r (c - (s.mat a).cols)) ∧
        exec (.matAugment d a b) s = .next (finished { s with mats := s.mats.set d.val x }))

/-- MAT_SUBMATRIX, its checks in order, every row-list entry before any column-list entry (42 R314, R325). -/
def Obligations.MatSubmatrixPicksRowsAndColumns : Prop :=
  ∀ (d a : MatReg) (s : State),
    decode (0x00000035#32 ||| BitVec.ofNat 32 d.val <<< 8 ||| BitVec.ofNat 32 a.val <<< 10) =
      .ok (.matSubmatrix d a) ∧
    ((s.mat a).rows = 0 → exec (.matSubmatrix d a) s = .next (failed s 0x15#8 0)) ∧
    ((s.mat a).rows ≠ 0 → ¬ dimsFit s.matArgRows.toNat s.matArgCols.toNat →
      exec (.matSubmatrix d a) s = .next (failed s 0x15#8 0)) ∧
    ((s.mat a).rows ≠ 0 → dimsFit s.matArgRows.toNat s.matArgCols.toNat →
      (∀ k, IsFirst (fun i => (s.mat a).rows ≤ s.rowIndex i) 0 s.matArgRows.toNat k →
        exec (.matSubmatrix d a) s = .next (failed s 0x16#8 k)) ∧
      ((∀ i, i < s.matArgRows.toNat → s.rowIndex i < (s.mat a).rows) →
        (∀ k, IsFirst (fun j => (s.mat a).cols ≤ s.colIndex j) 0 s.matArgCols.toNat k →
          exec (.matSubmatrix d a) s = .next (failed s 0x16#8 (0x80000000 + k))) ∧
        ((∀ j, j < s.matArgCols.toNat → s.colIndex j < (s.mat a).cols) →
          ∃ x, Elems x s.matArgRows.toNat s.matArgCols.toNat
              (fun i j => (s.mat a).at (s.rowIndex i) (s.colIndex j)) ∧
            exec (.matSubmatrix d a) s = .next (finished { s with mats := s.mats.set d.val x }))))

/-- MAT_INVERT, its checks in order and the case of `invert(A)` (42 R326). -/
def Obligations.MatInvertFollowsInvert : Prop :=
  ∀ (d a : MatReg) (s : State),
    decode (0x00000036#32 ||| BitVec.ofNat 32 d.val <<< 8 ||| BitVec.ofNat 32 a.val <<< 10) = .ok (.matInvert d a) ∧
    ((s.mat a).rows = 0 → exec (.matInvert d a) s = .next (failed s 0x15#8 0)) ∧
    ((s.mat a).rows ≠ 0 → (s.mat a).rows ≠ (s.mat a).cols → exec (.matInvert d a) s = .next (failed s 0x06#8 0)) ∧
    ((s.mat a).rows ≠ 0 → (s.mat a).rows = (s.mat a).cols →
      (∀ c, (s.mat a).invert = .singular c → exec (.matInvert d a) s = .next (failed s 0x05#8 c)) ∧
      ∀ x, (s.mat a).invert = .matrix x →
        exec (.matInvert d a) s = .next (finished { s with mats := s.mats.set d.val x }))

/-- MAT_INVERT of a matrix that has an inverse completes with a two-sided inverse; of one that has none it reports
SINGULAR_MATRIX with a column of the matrix (42 R316). -/
def Obligations.MatInvertInvertsTheInvertible : Prop :=
  ∀ (d a : MatReg) (s : State), (s.mat a).rows ≠ 0 → (s.mat a).rows = (s.mat a).cols →
    ((∃ c : Mat, c.rows = (s.mat a).rows ∧ c.cols = (s.mat a).rows ∧
        c.product (s.mat a) = Mat.identity (s.mat a).rows) →
      ∃ x, x.rows = (s.mat a).rows ∧ x.cols = (s.mat a).rows ∧
        (s.mat a).product x = Mat.identity (s.mat a).rows ∧ x.product (s.mat a) = Mat.identity (s.mat a).rows ∧
        exec (.matInvert d a) s = .next (finished { s with mats := s.mats.set d.val x })) ∧
    ((¬ ∃ c : Mat, c.rows = (s.mat a).rows ∧ c.cols = (s.mat a).rows ∧
        c.product (s.mat a) = Mat.identity (s.mat a).rows) →
      ∃ c, c < (s.mat a).rows ∧ exec (.matInvert d a) s = .next (failed s 0x05#8 c))

/-- MAT_INVERT reports the least column that is a combination of the columns before it (42 R316). -/
def Obligations.MatInvertReportsTheFirstDependentColumn : Prop :=
  ∀ (d a : MatReg) (s : State) (c : Nat), (s.mat a).rows ≠ 0 → (s.mat a).rows = (s.mat a).cols → c < (s.mat a).cols →
    dependentColumn (s.mat a) c → (∀ k, k < c → ¬ dependentColumn (s.mat a) k) →
    exec (.matInvert d a) s = .next (failed s 0x05#8 c)

/-- MAT_LOAD_CM (42 R327). -/
def Obligations.MatLoadCmCopiesCodingMatrix : Prop :=
  ∀ (d : MatReg) (s : State), decode (0x00000037#32 ||| BitVec.ofNat 32 d.val <<< 8) = .ok (.matLoadCm d) ∧
    (s.configured = false → exec (.matLoadCm d) s = .next (failed s 0x11#8 0)) ∧
    (s.configured = true → exec (.matLoadCm d) s = .next (finished { s with mats := s.mats.set d.val s.cm }))

/-! ### Coder -/

/-- CONFIGURE (43 R380). That a legal D and P always have a coding matrix is `ConfigureIsNeverSingular`. -/
def Obligations.ConfigureCommitsOrReports : Prop :=
  decode 0x00000001#32 = .ok .configure ∧
  ∀ s : State,
    (s.cfgD.toNat = 0 ∨ s.cfgP.toNat = 0 ∨ 256 < s.cfgD.toNat + s.cfgP.toNat →
      exec .configure s = .next (failed s 0x04#8 0)) ∧
    (1 ≤ s.cfgD.toNat → 1 ≤ s.cfgP.toNat → s.cfgD.toNat + s.cfgP.toNat ≤ 256 →
      ∀ x, codingMatrix s.cfgD.toNat s.cfgP.toNat = .matrix x →
        exec .configure s = .next (finished { s with cm := x, nData := s.cfgD, nParity := s.cfgP,
                                                     nTotal := s.cfgD + s.cfgP, configured := true }))

/-- The coding matrix is (D+P) x D, its top block is the identity, every element below it is nonzero, and it is the
Vandermonde matrix times the inverse of its top block, said without the inverse: times that top block it is the
Vandermonde matrix (43 R381, R382). -/
def Obligations.CodingMatrixIsSystematic : Prop :=
  ∀ (d p : Nat) (x : Mat), 1 ≤ d → 1 ≤ p → d + p ≤ 256 → codingMatrix d p = .matrix x →
    x.rows = d + p ∧ x.cols = d ∧
    (∀ i j, i < d → j < d → x.at i j = if i = j then 0x01#8 else 0x00#8) ∧
    (∀ i j, d ≤ i → i < d + p → j < d → x.at i j ≠ 0x00#8) ∧
    ∀ r c, r < d + p → c < d →
      fieldSum (fun k => gfMul (x.at r k) (power (BitVec.ofNat 8 k) c)) d = power (BitVec.ofNat 8 r) c

/-- CONFIGURE never reports SINGULAR_MATRIX: with a legal D and P there is a coding matrix, and CONFIGURE commits it
(43 R382). -/
def Obligations.ConfigureIsNeverSingular : Prop :=
  ∀ s : State, 1 ≤ s.cfgD.toNat → 1 ≤ s.cfgP.toNat → s.cfgD.toNat + s.cfgP.toNat ≤ 256 →
    ∃ x, codingMatrix s.cfgD.toNat s.cfgP.toNat = .matrix x ∧
      exec .configure s = .next (finished { s with cm := x, nData := s.cfgD, nParity := s.cfgP,
                                                   nTotal := s.cfgD + s.cfgP, configured := true })

/-- MDS: any D distinct rows of the coding matrix form an invertible matrix (43 R382). -/
def Obligations.AnyDRowsAreInvertible : Prop :=
  ∀ (d p : Nat) (x : Mat) (rows : List Nat), 1 ≤ d → 1 ≤ p → d + p ≤ 256 → codingMatrix d p = .matrix x →
    rows.Nodup → rows.length = d → (∀ i ∈ rows, i < d + p) →
    ∃ inv, (x.submatrix rows (List.range d)).invert = .matrix inv

/-- ENCODE writes the parity buffers and nothing else (43 R390, R391). -/
def Obligations.EncodeWritesParity : Prop :=
  decode 0x00000002#32 = .ok .encode ∧
  ∀ (s : State) (len : Nat), Ready s len → (∀ i, i < total s → data s ≤ i → ¬ overlaps s len i) →
    ∃ m, exec .encode s = .next (finished { s with shmem := m }) ∧
      (∀ r k, r < total s → data s ≤ r → k < len →
        { s with shmem := m }.byteAt (s.addrOf r + k) = parityByte s r k) ∧
      ∀ a, (∀ r, r < total s → data s ≤ r → ¬ inBuffer s len r a) → { s with shmem := m }.byteAt a = s.byteAt a

/-- VERIFY writes its verdict, which is that every parity buffer holds its parity, and nothing else (43 R393). -/
def Obligations.VerifyWritesTheVerdict : Prop :=
  decode 0x00000003#32 = .ok .verify ∧
  ∀ (s : State) (len : Nat), Ready s len →
    ∃ ok, exec .verify s = .next (finished { s with verifyOk := ok }) ∧
      (ok = true ↔ ∀ r k, r < total s → data s ≤ r → k < len → s.byteAt (s.addrOf r + k) = parityByte s r k)

/-- ENCODE and VERIFY report the first check that fails (43 R390, R393; 40 R206-R210). -/
def Obligations.EncodeAndVerifyReportFirstFailedCheck : Prop :=
  ∀ (i : Instr) (s : State), i = .encode ∨ i = .verify →
    (s.configured = false → exec i s = .next (failed s 0x11#8 0)) ∧
    (s.configured = true → s.shardCount.toNat < total s → exec i s = .next (failed s 0x01#8 0)) ∧
    (s.configured = true → total s < s.shardCount.toNat → exec i s = .next (failed s 0x02#8 0)) ∧
    (counted s → ∀ k, IsFirst (sizeBad s (s.lenOf 0)) 0 (total s) k → exec i s = .next (failed s 0x03#8 k)) ∧
    (counted s → (∀ k, k < total s → ¬ sizeBad s (s.lenOf 0) k) →
      ∀ k, IsFirst (endsPast s (s.lenOf 0)) 0 (total s) k → exec i s = .next (failed s 0x12#8 k)) ∧
    (i = .encode → Ready s (s.lenOf 0) →
      ∀ k, IsFirst (overlaps s (s.lenOf 0)) (data s) (total s) k → exec i s = .next (failed s 0x13#8 k))

/-- RECONSTRUCT fills every absent slot and nothing else, or changes nothing where every slot is present
(43 R395, R396). -/
def Obligations.ReconstructFillsAbsentSlots : Prop :=
  decode 0x00000004#32 = .ok .reconstruct ∧
  ∀ (s : State) (len : Nat), Recoverable s len →
    ((∀ i, i < total s → here s i) → exec .reconstruct s = .next (finished s)) ∧
    ((∃ i, i < total s ∧ ¬ here s i) → (∀ i, i < total s → ¬ endsPast s len i) →
      (∀ i, i < total s → ¬ here s i → ¬ overlaps s len i) →
      ∀ inv, s.decodeMatrix.invert = .matrix inv →
      ∃ m lens p, exec .reconstruct s = .next (finished { s with shmem := m, shardLen := lens, present := p }) ∧
        (∀ i : Fin 256, lens[i.val] = if i.val < total s ∧ ¬ here s i.val then BitVec.ofNat 32 len
                                      else s.shardLen[i.val]) ∧
        (∀ i, i < 256 → p.getLsbD i = (s.present.getLsbD i || decide (i < total s))) ∧
        (∀ i k, i < total s → ¬ here s i → k < len →
          { s with shmem := m }.byteAt (s.addrOf i + k) =
            if i < data s then dataByte s inv i k
            else fieldSum (fun j => gfMul (s.cm.at i j) (dataByte s inv j k)) (data s)) ∧
        ∀ a, (∀ i, i < total s → ¬ here s i → ¬ inBuffer s len i a) → { s with shmem := m }.byteAt a = s.byteAt a)

/-- RECONSTRUCT reports the first check that fails (43 R395). -/
def Obligations.ReconstructReportsFirstFailedCheck : Prop :=
  ∀ s : State,
    (s.configured = false → exec .reconstruct s = .next (failed s 0x11#8 0)) ∧
    (s.configured = true → s.shardCount.toNat < total s → exec .reconstruct s = .next (failed s 0x01#8 0)) ∧
    (s.configured = true → total s < s.shardCount.toNat → exec .reconstruct s = .next (failed s 0x02#8 0)) ∧
    (counted s → (presentList s).length < data s → exec .reconstruct s = .next (failed s 0x01#8 0)) ∧
    (counted s → 1 ≤ data s → data s ≤ (presentList s).length → ∀ f k, IsFirst (here s) 0 (total s) f →
      IsFirst (fun i => here s i ∧ sizeBad s (s.lenOf f) i) 0 (total s) k →
      exec .reconstruct s = .next (failed s 0x03#8 k)) ∧
    ∀ len, Recoverable s len → (∃ i, i < total s ∧ ¬ here s i) →
      (∀ k, IsFirst (endsPast s len) 0 (total s) k → exec .reconstruct s = .next (failed s 0x12#8 k)) ∧
      ((∀ k, k < total s → ¬ endsPast s len k) →
        (∀ k, IsFirst (fun i => ¬ here s i ∧ overlaps s len i) 0 (total s) k →
          exec .reconstruct s = .next (failed s 0x13#8 k)) ∧
        ((∀ k, k < total s → ¬ here s k → ¬ overlaps s len k) →
          ∀ c, s.decodeMatrix.invert = .singular c → exec .reconstruct s = .next (failed s 0x05#8 c)))

/-- After an ENCODE that succeeded, VERIFY sets VERIFY_OK, and a second ENCODE changes no byte (43 R392). -/
def Obligations.EncodeThenVerifySucceeds : Prop :=
  ∀ s t : State, exec .encode s = .next t → t.err = false →
    (∃ u, exec .verify (t.issue 0x00000003#32) = .next u ∧ u.err = false ∧ u.verifyOk = true) ∧
    ∃ u, exec .encode (t.issue 0x00000002#32) = .next u ∧ u.err = false ∧ ∀ a, u.byteAt a = t.byteAt a

/-- Where every present slot holds its shard of one encoded message, a RECONSTRUCT that succeeds leaves every slot holding
its shard of that message, whatever the absent buffers held (43 R397). -/
def Obligations.ReconstructRestoresTheCollection : Prop :=
  ∀ (s t : State) (len : Nat) (msg : Nat → Nat → Byte), s.Inv →
    (∀ i, i < total s → here s i → s.lenOf i = len) →
    (∀ i k, i < total s → here s i → k < len →
      s.byteAt (s.addrOf i + k) = fieldSum (fun j => gfMul (s.cm.at i j) (msg j k)) (data s)) →
    exec .reconstruct s = .next t → t.err = false →
    ∀ i k, i < total s → k < len →
      t.byteAt (s.addrOf i + k) = fieldSum (fun j => gfMul (s.cm.at i j) (msg j k)) (data s)

/-! ### Shard utilities -/

/-- BYTECOUNT (44 R450). -/
def Obligations.ByteCountResult : Prop :=
  ∀ (hint : Bool) (s : State),
    decode (if hint then 0x00010010#32 else 0x00000010#32) = .ok (.byteCount hint) ∧
    (hint = true → s.hint = 0#32 → exec (.byteCount hint) s = .next (failed s 0x07#8 0)) ∧
    (hint = true → s.hint ≠ 0#32 → exec (.byteCount hint) s = .next (finished { s with byteCount := s.hint })) ∧
    (hint = false → s.shardCount = 0#32 → exec (.byteCount hint) s = .next (failed s 0x01#8 0)) ∧
    (hint = false → s.shardCount ≠ 0#32 →
      exec (.byteCount hint) s = .next (finished { s with byteCount := s.shardLen[0] }))

/-- BYTECOUNT_OPT (44 R451). -/
def Obligations.ByteCountOptResult : Prop :=
  ∀ (hint : Bool) (s : State),
    decode (if hint then 0x00010011#32 else 0x00000011#32) = .ok (.byteCountOpt hint) ∧
    (256 < s.shardCount.toNat → exec (.byteCountOpt hint) s = .next (failed s 0x02#8 0)) ∧
    (s.shardCount.toNat ≤ 256 →
      (hint = true → s.hint = 0#32 → exec (.byteCountOpt hint) s = .next (failed s 0x07#8 0)) ∧
      (hint = false ∨ s.hint ≠ 0#32 →
        ((∀ i, i < s.shardCount.toNat → ¬ here s i) → exec (.byteCountOpt hint) s = .next (failed s 0x01#8 0)) ∧
        ∀ f : Fin 256, IsFirst (here s) 0 s.shardCount.toNat f.val →
          exec (.byteCountOpt hint) s =
            .next (finished { s with byteCount := if hint then s.hint else s.shardLen[f.val] })))

/-- MARK_ALL_PRESENT (44 R452). -/
def Obligations.MarkAllPresentResult : Prop :=
  decode 0x00000012#32 = .ok .markAllPresent ∧
  ∀ s : State,
    (256 < s.shardCount.toNat → exec .markAllPresent s = .next (failed s 0x02#8 0)) ∧
    (s.shardCount.toNat ≤ 256 → ∃ p, exec .markAllPresent s = .next (finished { s with present := p }) ∧
      ∀ i, i < 256 → p.getLsbD i = (decide (i < s.shardCount.toNat) || s.present.getLsbD i))

/-- CHECK_ALL_PRESENT (44 R453). -/
def Obligations.CheckAllPresentResult : Prop :=
  decode 0x00000013#32 = .ok .checkAllPresent ∧
  ∀ s : State,
    (256 < s.shardCount.toNat → exec .checkAllPresent s = .next (failed s 0x02#8 0)) ∧
    (s.shardCount.toNat ≤ 256 →
      (∀ k, IsFirst (fun i => ¬ here s i) 0 s.shardCount.toNat k →
        exec .checkAllPresent s = .next (failed s 0x17#8 k)) ∧
      ((∀ i, i < s.shardCount.toNat → here s i) → exec .checkAllPresent s = .next (finished s)))

/-- CHECK_WINDOW, with the start and the count given or absent (44 R454). -/
def Obligations.CheckWindowResult : Prop :=
  ∀ (hasStart hasCount : Bool) (s : State) (start count : Nat),
    start = (if hasStart then s.winStart.toNat else 0) →
    count = (if hasCount then s.winCount.toNat else s.shardCount.toNat - start) →
    decode (0x00000014#32 ||| (if hasStart then 0x00010000#32 else 0#32) |||
      (if hasCount then 0x00020000#32 else 0#32)) = .ok (.checkWindow hasStart hasCount) ∧
    (256 < s.shardCount.toNat → exec (.checkWindow hasStart hasCount) s = .next (failed s 0x02#8 0)) ∧
    (s.shardCount.toNat ≤ 256 → s.shardCount.toNat < start ∨ s.shardCount.toNat < start + count →
      exec (.checkWindow hasStart hasCount) s = .next (failed s 0x01#8 0)) ∧
    (s.shardCount.toNat ≤ 256 → start + count ≤ s.shardCount.toNat →
      (∀ k, IsFirst (fun i => ¬ here s i) start (start + count) k →
        exec (.checkWindow hasStart hasCount) s = .next (failed s 0x17#8 k)) ∧
      ((∀ i, i < start + count → start ≤ i → here s i) →
        exec (.checkWindow hasStart hasCount) s = .next (finished s)))

/-- COUNT_PRESENT (44 R455). -/
def Obligations.CountPresentResult : Prop :=
  decode 0x00000015#32 = .ok .countPresent ∧
  ∀ s : State,
    (256 < s.shardCount.toNat → exec .countPresent s = .next (failed s 0x02#8 0)) ∧
    (s.shardCount.toNat ≤ 256 → ∃ v, exec .countPresent s = .next (finished { s with presentCount := v }) ∧
      v.toNat = (List.range s.shardCount.toNat).countP fun i => s.present.getLsbD i)

/-! ### Host accesses -/

/-- Which host accesses get a bus error, and that every other one completes; a host that takes the error response goes on
with no state of the RSE changed (20 R102, R103, R105, R106, R111; 60 R508). That a write to a read-only register which
may be read while BUSY = 1 gets a bus error then is the model's reading (log 5). -/
def Obligations.BusErrorsAndNothingElseFault : Prop :=
  ∀ (s : State) (bits o : Nat) (v : Word),
    ((∃ c, hostRead bits o s = .fault (.busError c o)) ↔ busErrorDue s (o ≤ 0x0020) bits o) ∧
    ((∃ c, hostWrite bits o v s = .fault (.busError c o)) ↔ busErrorDue s (o = 0x001C ∨ o = 0x0020) bits o) ∧
    (¬ busErrorDue s (o ≤ 0x0020) bits o → ∃ t, hostRead bits o s = .next t) ∧
    (¬ busErrorDue s (o = 0x001C ∨ o = 0x0020) bits o → ∃ t, hostWrite bits o v s = .next t) ∧
    ∀ (a : Access) (c : BusCause) (k : Nat), hostAccess a s = .fault (.busError c k) →
      hostAttempt a s = .next (answered s (.error c))

/-- A host read changes nothing but the host's own record of the answer, and may be repeated (20 R109). -/
def Obligations.ReadsHaveNoSideEffects : Prop :=
  ∀ (s t : State) (bits o : Nat), hostRead bits o s = .next t →
    ∃ v, t = answered s (.data v) ∧ hostRead bits o t = .next t

/-- A host write to a read-only location completes and changes nothing (20 R107). -/
def Obligations.ReadOnlyLocationsIgnoreWrites : Prop :=
  ∀ (s : State) (o : Nat) (v : Word), s.busy = false →
    (readOnlyOffset o → hostWrite 32 o v s = .next (answered s .done)) ∧
    ∀ r w, r < 256 → w < 64 → o = 0x10000 + 0x100 * r + 4 * w →
      (r < s.nTotal.toNat ∧ 4 * w < s.nData.toNat → hostWrite 32 o v s = .next (answered s .done)) ∧
      (¬(r < s.nTotal.toNat ∧ 4 * w < s.nData.toNat) → hostWrite 32 o v s = .fault (.busError .outOfMatrix o))

/-- A host read after a host write of a read-write register gives the written value's implemented bits, and, but for the
issue a CMD write makes, every other location reads as before (20 R108, 70 R566). -/
def Obligations.WrittenRegistersReadBack : Prop :=
  ∀ (s : State) (o : Nat) (v bits : Word), s.busy = false → implementedBits o = some bits →
    ∃ t, hostWrite 32 o v s = .next t ∧ hostRead 32 o t = .next (answered t (.data (v &&& bits))) ∧
      (o ≠ 0x0010 → ∀ o' w, o' ≠ o → hostRead 32 o' s = .next (answered s (.data w)) →
        hostRead 32 o' t = .next (answered t (.data w)))

/-- What every register and every word of the arrays and tables reads at its offset (10 R33, R39, R40, R42-R61; 20 R101,
R104, R112; 41 R259). What the words of the LOG and EXP windows hold rests on the generator 0x02 (PRESUMED, log 9). -/
def Obligations.RegistersReadTheirFields : Prop :=
  ∀ s : State,
    reads s 0x0000 0x52534531#32 ∧ reads s 0x0004 0x00010000#32 ∧ reads s 0x0008 (BitVec.ofNat 32 s.shmemSize) ∧
    (∃ v, reads s 0x000C v ∧ v.getLsbD 0 = s.busy ∧ v.getLsbD 1 = s.done ∧ v.getLsbD 2 = s.err ∧
      v.getLsbD 3 = s.configured ∧ v.getLsbD 4 = s.verifyOk ∧ ∀ k, 5 ≤ k → v.getLsbD k = false) ∧
    reads s 0x0010 s.cmd ∧ reads s 0x0014 (s.errCode.setWidth 32) ∧ reads s 0x0018 s.errInfo ∧
    reads s 0x001C (if s.doneIe then 1#32 else 0#32) ∧ reads s 0x0020 (if s.doneIp then 1#32 else 0#32) ∧
    (s.busy = false →
      reads s 0x0024 s.cfgD ∧ reads s 0x0028 s.cfgP ∧
      reads s 0x002C s.nData ∧ reads s 0x0030 s.nParity ∧ reads s 0x0034 s.nTotal ∧
      reads s 0x0038 s.shardCount ∧ reads s 0x003C s.hint ∧ reads s 0x0040 s.winStart ∧ reads s 0x0044 s.winCount ∧
      reads s 0x0048 s.byteCount ∧ reads s 0x004C (s.presentCount.setWidth 32) ∧
      reads s 0x0050 (s.aluA.setWidth 32) ∧ reads s 0x0054 (s.aluB.setWidth 32) ∧ reads s 0x0058 s.aluN ∧
      reads s 0x005C (s.aluR.setWidth 32) ∧
      reads s 0x0060 (s.matArgRows.setWidth 32) ∧ reads s 0x0064 (s.matArgCols.setWidth 32) ∧
      (∀ m : MatReg, (s.mat m).rows < 0x10000 → (s.mat m).cols < 0x10000 →
        ∃ v, reads s (0x0070 + 4 * m.val) v ∧ v.toNat = (s.mat m).cols * 0x10000 + (s.mat m).rows) ∧
      (∀ w : Fin 8, ∃ v, reads s (0x0100 + 4 * w.val) v ∧
        ∀ b, b < 32 → v.getLsbD b = s.present.getLsbD (32 * w.val + b)) ∧
      (∀ w : Fin 64, ∃ v : Word, reads s (0x0400 + 4 * w.val) v ∧
        ∀ b, b < 4 → v.extractLsb' (8 * b) 8 = BitVec.ofNat 8 (logAt (BitVec.ofNat 8 (4 * w.val + b)))) ∧
      (∀ w : Fin 64, ∃ v : Word, reads s (0x0500 + 4 * w.val) v ∧
        ∀ b, b < 4 → v.extractLsb' (8 * b) 8 = expAt (4 * w.val + b)) ∧
      reads s 0x0400 0x19010000#32 ∧ reads s 0x0500 0x08040201#32 ∧ reads s 0x05FC 0x018E47AD#32 ∧
      (∀ i : Fin 256, reads s (0x0800 + 8 * i.val) s.shardAddr[i.val] ∧
        reads s (0x0804 + 8 * i.val) s.shardLen[i.val] ∧ reads s (0x1000 + 4 * i.val) (s.idxR[i.val].setWidth 32)) ∧
      ∀ j : Fin 512, reads s (0x1400 + 4 * j.val) (s.idxC[j.val].setWidth 32))

/-- A word of the SHMEM window is four bytes, lowest address in the lowest lane; a write stores the four and no other
byte (20 R104, R110). -/
def Obligations.ShmemWindowWords : Prop :=
  ∀ (s : State) (a : Nat) (v : Word), legalShmemSize s.shmemSize → s.busy = false → a % 4 = 0 → a < s.shmemSize →
    (∃ w : Word, hostRead 32 (0x1000000 + a) s = .next (answered s (.data w)) ∧
      ∀ b, b < 4 → w.extractLsb' (8 * b) 8 = s.byteAt (a + b)) ∧
    ∃ m, hostWrite 32 (0x1000000 + a) v s = .next (answered { s with shmem := m } .done) ∧
      (∀ b, b < 4 → { s with shmem := m }.byteAt (a + b) = v.extractLsb' (8 * b) 8) ∧
      ∀ x, x < a ∨ a + 4 ≤ x → { s with shmem := m }.byteAt x = s.byteAt x

/-- The words of a matrix register's window and of the CM window: accepted iff they touch the matrix; a lane past the last
column reads 0 and is not written; a write changes the elements of a register it covers and neither another element nor
the dimensions, and nothing of CM (20 R107, R111; 42 R318). -/
def Obligations.MatrixWindowWords : Prop :=
  (∀ (s : State) (m : MatReg) (r w o : Nat) (v : Word), s.busy = false → r < 256 → w < 128 →
    o = 0x100000 + 0x20000 * m.val + 0x200 * r + 4 * w →
    (r < (s.mat m).rows → 4 * w < (s.mat m).cols →
      (∃ u : Word, hostRead 32 o s = .next (answered s (.data u)) ∧ ∀ b, b < 4 → u.extractLsb' (8 * b) 8 =
        if 4 * w + b < (s.mat m).cols then (s.mat m).at r (4 * w + b) else 0x00#8) ∧
      ∃ x, Elems x (s.mat m).rows (s.mat m).cols (fun i j => if i = r ∧ 4 * w ≤ j ∧ j < 4 * w + 4
          then v.extractLsb' (8 * (j - 4 * w)) 8 else (s.mat m).at i j) ∧
        hostWrite 32 o v s = .next (answered { s with mats := s.mats.set m.val x } .done)) ∧
    (¬(r < (s.mat m).rows ∧ 4 * w < (s.mat m).cols) →
      hostRead 32 o s = .fault (.busError .outOfMatrix o) ∧ hostWrite 32 o v s = .fault (.busError .outOfMatrix o))) ∧
  ∀ (s : State) (r w o : Nat) (v : Word), s.busy = false → r < 256 → w < 64 → o = 0x10000 + 0x100 * r + 4 * w →
    (r < s.nTotal.toNat → 4 * w < s.nData.toNat →
      (∃ u : Word, hostRead 32 o s = .next (answered s (.data u)) ∧ ∀ b, b < 4 → u.extractLsb' (8 * b) 8 =
        if 4 * w + b < s.nData.toNat then s.cm.at r (4 * w + b) else 0x00#8) ∧
      hostWrite 32 o v s = .next (answered s .done)) ∧
    (¬(r < s.nTotal.toNat ∧ 4 * w < s.nData.toNat) →
      hostRead 32 o s = .fault (.busError .outOfMatrix o) ∧ hostWrite 32 o v s = .fault (.busError .outOfMatrix o))

/-- The interrupt (60 R510): IRQ is DONE_IP AND DONE_IE; every completion sets DONE_IP; a write of 1 to INT_STATUS bit 0
clears it and a write of 0 leaves it; masking and issuing leave it; both registers are open while BUSY = 1. -/
def Obligations.InterruptPendingAndEnable : Prop :=
  ∀ (s : State) (v : Word),
    (s.irq = true ↔ s.doneIp = true ∧ s.doneIe = true) ∧
    (∀ i t, exec i s = .next t → t.doneIp = true ∧ t.doneIe = s.doneIe ∧ t.irq = s.doneIe) ∧
    (v.getLsbD 0 = true → hostWrite 32 0x0020 v s = .next (answered { s with doneIp := false } .done)) ∧
    (v.getLsbD 0 = false → hostWrite 32 0x0020 v s = .next (answered s .done)) ∧
    hostWrite 32 0x001C v s = .next (answered { s with doneIe := v.getLsbD 0 } .done) ∧
    (s.busy = false → ∃ t, hostWrite 32 0x0010 v s = .next t ∧ t.doneIp = s.doneIp) ∧ State.reset.irq = false

/-! ### Reset and the invariant -/

/-- The state after reset, and the reset input at any step, busy or not: every register takes its reset value in one step,
a pending command is abandoned, and SHMEM becomes new draws (70 R550, R551, R552). -/
def Obligations.ResetPutsEveryRegisterToItsValue : Prop :=
  ResetValues State.reset ∧ (∀ a, State.reset.byteAt a = Config.shmemDraw 0 a) ∧
  ∀ (s : State) (ms : List Move), s.host.moves = .reset :: ms →
    ∃ t, step s = .next t ∧ ResetValues t ∧ t.shmemSize = s.shmemSize ∧ t.host = { s.host with moves := ms } ∧
      ∀ a, t.byteAt a = Config.shmemDraw (s.resets + 1) a

/-- The invariant holds after reset. -/
def Obligations.InvariantHoldsAfterReset : Prop := State.reset.Inv

/-- Every step keeps the invariant: shard memory stays canonical and inside SHMEM, NTOTAL = NDATA + NPARITY, CM is the
coding matrix of the configuration, the matrix registers stay legal, ERR_CODE holds a code of the table. -/
def Obligations.EveryStepKeepsTheInvariant : Prop := ∀ s t : State, s.Inv → step s = .next t → t.Inv

end Statements
end

