-- ==== Sys2Proof/Laws/Matrix.lean ====
section
/-! SUPPORT. Matrix values: the elements and dimensions of what each matrix function builds. -/

namespace Sys2Proof.Machine

@[simp] theorem rows_build (r c : Nat) (f : Nat → Nat → Byte) : (Mat.build r c f).rows = r := rfl
@[simp] theorem cols_build (r c : Nat) (f : Nat → Nat → Byte) : (Mat.build r c f).cols = c := rfl

/-- An element of a built matrix. -/
theorem at_build {r c i j : Nat} (f : Nat → Nat → Byte) (hi : i < r) (hj : j < c) :
    (Mat.build r c f).at i j = f i j := by
  simp [Mat.at, Mat.build, List.getD_eq_getElem?_getD, hi, hj]

/-- A built matrix of legal dimensions is in canonical form (10 R61). -/
theorem wf_build {r c : Nat} (f : Nat → Nat → Byte) (h : 1 ≤ r ∧ r ≤ 256 ∧ 1 ≤ c ∧ c ≤ 512) :
    (Mat.build r c f).wf = true := by
  have e : r = 0 ↔ c = 0 := by omega
  simp [Mat.wf, Mat.build, matMaxRows, matMaxCols, h.2.1, h.2.2.2, e]

/-- No matrix is in canonical form. -/
theorem wf_undefined : Mat.undefined.wf = true := by decide

/-- Two matrices in canonical form with the same dimensions and elements are equal. -/
theorem mat_ext {a b : Mat} (ha : a.wf = true) (hb : b.wf = true) (hr : a.rows = b.rows) (hc : a.cols = b.cols)
    (h : ∀ i j, i < a.rows → j < a.cols → a.at i j = b.at i j) : a = b := by
  obtain ⟨ar, ac, ae⟩ := a
  obtain ⟨br, bc, be⟩ := b
  simp only [Mat.wf, Bool.and_eq_true, decide_eq_true_eq, List.all_eq_true] at ha hb
  obtain ⟨⟨-, hla⟩, hea⟩ := ha
  obtain ⟨⟨-, hlb⟩, heb⟩ := hb
  simp only at hr hc h hla hlb hea heb
  subst hr hc
  congr 1
  refine List.ext_getElem (by omega) fun i h1 h2 => ?_
  have l1 := hea _ (List.getElem_mem h1)
  have l2 := heb _ (List.getElem_mem h2)
  refine List.ext_getElem (by omega) fun j h3 h4 => ?_
  have := h i j (by omega) (by omega)
  simpa [Mat.at, List.getD_eq_getElem?_getD, h1, h2, h3, h4] using this

/-- A matrix in canonical form is the matrix built from its elements. -/
theorem build_at {a : Mat} (h : a.wf = true) (h0 : a.rows ≠ 0) : Mat.build a.rows a.cols a.at = a := by
  have hw := h
  simp only [Mat.wf, Bool.and_eq_true, decide_eq_true_eq] at hw
  obtain ⟨⟨⟨⟨h1, h2⟩, h3⟩, -⟩, -⟩ := hw
  have h1 : a.rows ≤ 256 := h1
  have h2 : a.cols ≤ 512 := h2
  have hc : a.cols ≠ 0 := fun e => h0 (h3.2 e)
  refine mat_ext (wf_build _ ⟨by omega, h1, by omega, h2⟩) h rfl rfl fun i j hi hj => ?_
  exact at_build _ hi hj

@[simp] theorem dims_zero (r c : Nat) : (Mat.zero r c).rows = r ∧ (Mat.zero r c).cols = c := ⟨rfl, rfl⟩
@[simp] theorem dims_identity (n : Nat) : (Mat.identity n).rows = n ∧ (Mat.identity n).cols = n := ⟨rfl, rfl⟩
@[simp] theorem dims_vandermonde (r c : Nat) :
    (Mat.vandermonde r c).rows = r ∧ (Mat.vandermonde r c).cols = c := ⟨rfl, rfl⟩
@[simp] theorem dims_product (a b : Mat) : (a.product b).rows = a.rows ∧ (a.product b).cols = b.cols := ⟨rfl, rfl⟩
@[simp] theorem dims_augment (a b : Mat) :
    (a.augment b).rows = a.rows ∧ (a.augment b).cols = a.cols + b.cols := ⟨rfl, rfl⟩
@[simp] theorem dims_submatrix (a : Mat) (rl cl : List Nat) :
    (a.submatrix rl cl).rows = rl.length ∧ (a.submatrix rl cl).cols = cl.length := ⟨rfl, rfl⟩
@[simp] theorem dims_swapRows (w : Mat) (p q : Nat) :
    (w.swapRows p q).rows = w.rows ∧ (w.swapRows p q).cols = w.cols := ⟨rfl, rfl⟩
@[simp] theorem dims_scaleRow (w : Mat) (r : Nat) (s : Byte) :
    (w.scaleRow r s).rows = w.rows ∧ (w.scaleRow r s).cols = w.cols := ⟨rfl, rfl⟩
@[simp] theorem dims_clearColumn (w : Mat) (r : Nat) :
    (w.clearColumn r).rows = w.rows ∧ (w.clearColumn r).cols = w.cols := ⟨rfl, rfl⟩

/-- The pivot search keeps the dimensions (42 R315). -/
@[simp] theorem dims_pivot (w : Mat) (r : Nat) : (w.pivot r).rows = w.rows ∧ (w.pivot r).cols = w.cols := by
  unfold Mat.pivot
  split_ifs
  · split <;> simp
  · simp

/-- What the pivot search does (42 R315): nothing, or it swaps row r with a row below it. -/
theorem pivot_cases (w : Mat) (r : Nat) :
    w.pivot r = w ∨ ∃ q, r < q ∧ q < w.rows ∧ w.at q r ≠ 0#8 ∧ w.at r r = 0#8 ∧ w.pivot r = w.swapRows r q := by
  unfold Mat.pivot
  split_ifs with h
  · split
    · rename_i rb hf
      have hm := List.mem_of_find?_eq_some hf
      have hp := List.find?_some hf
      simp only [List.mem_range'_1] at hm
      exact .inr ⟨rb, by omega, by omega, by simpa using hp, h, rfl⟩
    · exact .inl rfl
  · exact .inl rfl

/-- Gauss-Jordan elimination keeps the dimensions of the working array (42 R315). -/
theorem dims_gaussJordan {rs : List Nat} {w x : Mat} (h : gaussJordan w rs = .matrix x) :
    x.rows = w.rows ∧ x.cols = w.cols := by
  induction rs generalizing w with
  | nil => simp only [gaussJordan, Solved.matrix.injEq] at h; subst h; exact ⟨rfl, rfl⟩
  | cons r rs ih =>
    simp only [gaussJordan] at h
    split at h
    · exact absurd h (by simp)
    · have := ih h
      simpa using this

/-- Where elimination fails it names a column of its list (42 R315). -/
theorem singular_mem {rs : List Nat} {w : Mat} {c : Nat} (h : gaussJordan w rs = .singular c) : c ∈ rs := by
  induction rs generalizing w with
  | nil => simp [gaussJordan] at h
  | cons r rs ih =>
    simp only [gaussJordan] at h
    split at h
    · simp only [Solved.singular.injEq] at h; subst h; exact List.mem_cons_self ..
    · exact List.mem_cons_of_mem _ (ih h)

/-- An inverse is n x n (42 R315). -/
theorem dims_invert {a b : Mat} (h : a.invert = .matrix b) : b.rows = a.rows ∧ b.cols = a.rows := by
  unfold Mat.invert at h
  split at h
  · exact absurd h (by simp)
  · simp only [Solved.matrix.injEq] at h
    subst h
    simp

/-- An inverse of a legal square matrix is in canonical form. -/
theorem wf_invert {a b : Mat} (h : a.invert = .matrix b) (h1 : 1 ≤ a.rows) (h2 : a.rows ≤ 256) : b.wf = true := by
  unfold Mat.invert at h
  split at h
  · exact absurd h (by simp)
  · simp only [Solved.matrix.injEq] at h
    subst h
    exact wf_build _ (by simp; omega)

/-- A failing column is a column of the matrix (42 R315). -/
theorem singular_lt {a : Mat} {c : Nat} (h : a.invert = .singular c) : c < a.rows := by
  unfold Mat.invert at h
  split at h
  · rename_i d hd
    simp only [Solved.singular.injEq] at h
    subst h
    simpa using singular_mem hd
  · exact absurd h (by simp)

/-- The coding matrix is (D+P) x D (43 R381). -/
theorem dims_codingMatrix {d p : Nat} {x : Mat} (h : codingMatrix d p = .matrix x) : x.rows = d + p ∧ x.cols = d := by
  unfold codingMatrix at h
  split at h
  · exact absurd h (by simp)
  · rename_i t ht
    simp only [Solved.matrix.injEq] at h
    subst h
    have := dims_invert ht
    simpa using this.2

/-- The coding matrix of a legal configuration is in canonical form. -/
theorem wf_codingMatrix {d p : Nat} {x : Mat} (h : codingMatrix d p = .matrix x) (hd : 1 ≤ d) (hn : d + p ≤ 256) :
    x.wf = true := by
  have hx := h
  unfold codingMatrix at h
  split at h
  · exact absurd h (by simp)
  · rename_i t ht
    simp only [Solved.matrix.injEq] at h
    subst h
    have := dims_invert ht
    simp only [dims_submatrix, List.length_range] at this
    exact wf_build _ (by simp [this.2]; omega)

end Sys2Proof.Machine
end

