-- ==== Sys2Proof/Laws/Memory.lean ====
section
/-! SUPPORT. Shard memory as a list of cells: a read after a write, the canonical form kept, and byte lanes. -/

namespace Sys2Proof.Machine

/-- A read after a one-byte write (00 R15). -/
@[simp] theorem lookup_store (m : Memory) (a x : Nat) (b : Byte) :
    (m.store a b).lookup x = if x = a then some b else m.lookup x := by
  induction m with
  | nil => by_cases h : a = x <;> simp [Memory.store, Memory.lookup, h, eq_comm]
  | cons c m ih =>
    obtain ⟨k, v⟩ := c
    by_cases h1 : a < k
    · simp only [Memory.store, h1, if_true, Memory.lookup, eq_comm]
    · by_cases h2 : a = k
      · subst h2
        simp only [Memory.store, h1, if_false, if_true, Memory.lookup]
        split_ifs <;> first | rfl | omega
      · simp only [Memory.store, h1, h2, if_false, Memory.lookup, ih]
        split_ifs <;> first | rfl | omega

/-- A read after a write of a byte sequence: the byte of the sequence inside it, the old one outside (00 R15). -/
theorem lookup_storeBytes (m : Memory) (a x : Nat) (bs : List Byte) :
    (m.storeBytes a bs).lookup x =
      if a ≤ x ∧ x < a + bs.length then some (bs.getD (x - a) 0#8) else m.lookup x := by
  induction bs generalizing m a with
  | nil => simp [Memory.storeBytes]
  | cons b bs ih =>
    simp only [Memory.storeBytes, ih, lookup_store, List.length_cons]
    by_cases h : x = a
    · subst h; simp
    · by_cases h2 : a + 1 ≤ x ∧ x < a + 1 + bs.length
      · have h3 : a ≤ x ∧ x < a + (bs.length + 1) := by omega
        rw [if_pos h2, if_pos h3]
        obtain ⟨k, rfl⟩ : ∃ k, x = a + (k + 1) := ⟨x - a - 1, by omega⟩
        have e1 : a + (k + 1) - (a + 1) = k := by omega
        have e2 : a + (k + 1) - a = k + 1 := by omega
        simp [e1, e2]
      · have h3 : ¬(a ≤ x ∧ x < a + (bs.length + 1)) := by omega
        rw [if_neg h2, if_neg h3, if_neg h]

/-- The addresses of a memory after a one-byte write: the old ones and the one written. -/
theorem mem_store_keys (m : Memory) (a k : Nat) (b : Byte) (h : k ∈ (m.store a b).map (·.1)) :
    k = a ∨ k ∈ m.map (·.1) := by
  induction m with
  | nil => simp [Memory.store] at h; exact .inl h
  | cons c m ih =>
    obtain ⟨j, v⟩ := c
    simp only [Memory.store] at h
    split_ifs at h <;> simp only [List.map_cons, List.mem_cons] at h ⊢
    · tauto
    · tauto
    · rcases h with h | h
      · tauto
      · rcases ih h with h | h <;> tauto

/-- A one-byte write keeps the canonical form. -/
theorem wf_store (m : Memory) (a : Nat) (b : Byte) (h : m.wf = true) : (m.store a b).wf = true := by
  simp only [Memory.wf, decide_eq_true_eq] at h ⊢
  induction m with
  | nil => simp [Memory.store]
  | cons c m ih =>
    obtain ⟨k, v⟩ := c
    simp only [List.map_cons, List.pairwise_cons] at h
    simp only [Memory.store]
    split_ifs with h1 h2
    · simp only [List.map_cons, List.pairwise_cons, List.mem_cons]
      refine ⟨?_, h.1, h.2⟩
      rintro x (rfl | hx)
      · exact h1
      · exact lt_trans h1 (h.1 x hx)
    · subst h2
      simpa only [List.map_cons, List.pairwise_cons] using h
    · simp only [List.map_cons, List.pairwise_cons]
      refine ⟨fun x hx => ?_, ih h.2⟩
      rcases mem_store_keys m a x b hx with rfl | hx
      · omega
      · exact h.1 x hx

/-- A write of a byte sequence keeps the canonical form. -/
theorem wf_storeBytes (m : Memory) (a : Nat) (bs : List Byte) (h : m.wf = true) : (m.storeBytes a bs).wf = true := by
  induction bs generalizing m a with
  | nil => exact h
  | cons b bs ih => exact ih _ _ (wf_store m a b h)

/-- A write of a byte sequence that ends inside SHMEM keeps every listed address inside SHMEM. -/
theorem inside_storeBytes (m : Memory) (a n : Nat) (bs : List Byte) (hm : ∀ c ∈ m, c.1 < n)
    (hb : a + bs.length ≤ n) : ∀ c ∈ m.storeBytes a bs, c.1 < n := by
  induction bs generalizing m a with
  | nil => exact hm
  | cons b bs ih =>
    simp only [List.length_cons] at hb
    refine ih _ _ (fun c hc => ?_) (by omega)
    rcases mem_store_keys m a c.1 b (List.mem_map_of_mem hc) with h | h
    · omega
    · obtain ⟨d, hd, e⟩ := List.mem_map.1 h
      exact e ▸ hm d hd

/-- Reset memory is in canonical form. -/
theorem wf_reset : State.reset.shmem.wf = true := by decide

/-- A byte of SHMEM after a write of a byte sequence (00 R15). -/
theorem byteAt_storeBytes (s : State) (a x : Nat) (bs : List Byte) :
    { s with shmem := s.shmem.storeBytes a bs }.byteAt x =
      if a ≤ x ∧ x < a + bs.length then bs.getD (x - a) 0#8 else s.byteAt x := by
  simp only [State.byteAt, lookup_storeBytes]
  split_ifs <;> rfl

/-- `MemRead` returns n bytes (00 R15). -/
@[simp] theorem length_readBytes (s : State) (a n : Nat) : (s.readBytes a n).length = n := by
  simp [State.readBytes]

/-- Byte k of `MemRead(addr, n)` (00 R15). -/
theorem getD_readBytes (s : State) {a n k : Nat} (h : k < n) : (s.readBytes a n).getD k 0#8 = s.byteAt (a + k) := by
  simp [State.readBytes, h]

/-- Byte lane b of a packed word (20 R104). -/
theorem laneOf_packLanes (f : Nat → Byte) (b : Nat) (h : b < 4) : laneOf (packLanes f) b = f b := by
  obtain rfl | rfl | rfl | rfl : b = 0 ∨ b = 1 ∨ b = 2 ∨ b = 3 := by omega
  all_goals
    ext i hi
    simp only [laneOf, packLanes, BitVec.getElem_extractLsb', BitVec.getLsbD_append]
    simp [hi]
  · rw [if_neg (by omega), if_neg (by omega), if_pos (by omega), show 16 + i - 8 - 8 = i by omega]
    exact BitVec.getLsbD_eq_getElem hi
  · rw [if_neg (by omega), if_neg (by omega), if_neg (by omega), show 24 + i - 8 - 8 - 8 = i by omega]
    exact BitVec.getLsbD_eq_getElem hi

end Sys2Proof.Machine
end

