-- ==== Sys2Proof/Laws/State.lean ====
section
/-! SUPPORT. What each update of the state changes and what it leaves: per update, every field, as simp rules. -/

namespace Sys2Proof.Machine

/-- The fields after the issue (40 R200). -/
@[simp] theorem issue_fields (s : State) (w : Word) :
    (s.issue w).busy = true ∧ (s.issue w).done = false ∧ (s.issue w).err = false ∧ (s.issue w).cmd = w ∧
    (s.issue w).errCode = errNone ∧ (s.issue w).errInfo = 0#32 ∧ (s.issue w).configured = s.configured ∧
    (s.issue w).verifyOk = s.verifyOk ∧ (s.issue w).doneIe = s.doneIe ∧ (s.issue w).doneIp = s.doneIp ∧
    (s.issue w).cfgD = s.cfgD ∧ (s.issue w).cfgP = s.cfgP ∧ (s.issue w).nData = s.nData ∧
    (s.issue w).nParity = s.nParity ∧ (s.issue w).nTotal = s.nTotal ∧ (s.issue w).cm = s.cm ∧
    (s.issue w).shardCount = s.shardCount ∧ (s.issue w).hint = s.hint ∧ (s.issue w).winStart = s.winStart ∧
    (s.issue w).winCount = s.winCount ∧ (s.issue w).byteCount = s.byteCount ∧
    (s.issue w).presentCount = s.presentCount ∧ (s.issue w).present = s.present ∧
    (s.issue w).shardAddr = s.shardAddr ∧ (s.issue w).shardLen = s.shardLen ∧ (s.issue w).aluA = s.aluA ∧
    (s.issue w).aluB = s.aluB ∧ (s.issue w).aluN = s.aluN ∧ (s.issue w).aluR = s.aluR ∧
    (s.issue w).matArgRows = s.matArgRows ∧ (s.issue w).matArgCols = s.matArgCols ∧ (s.issue w).idxR = s.idxR ∧
    (s.issue w).idxC = s.idxC ∧ (s.issue w).mats = s.mats ∧ (s.issue w).shmem = s.shmem ∧
    (s.issue w).shmemSize = s.shmemSize ∧ (s.issue w).resets = s.resets ∧ (s.issue w).host = s.host := by
  repeat' (first | exact rfl | apply And.intro)

/-- The fields after a successful completion (40 R204). -/
@[simp] theorem completeOk_fields (s : State) :
    s.completeOk.busy = false ∧ s.completeOk.done = true ∧ s.completeOk.err = false ∧
    s.completeOk.errCode = errNone ∧ s.completeOk.errInfo = 0#32 ∧ s.completeOk.doneIp = true ∧
    s.completeOk.configured = s.configured ∧ s.completeOk.verifyOk = s.verifyOk ∧ s.completeOk.cmd = s.cmd ∧
    s.completeOk.doneIe = s.doneIe ∧ s.completeOk.cfgD = s.cfgD ∧ s.completeOk.cfgP = s.cfgP ∧
    s.completeOk.nData = s.nData ∧ s.completeOk.nParity = s.nParity ∧ s.completeOk.nTotal = s.nTotal ∧
    s.completeOk.cm = s.cm ∧ s.completeOk.shardCount = s.shardCount ∧ s.completeOk.hint = s.hint ∧
    s.completeOk.winStart = s.winStart ∧ s.completeOk.winCount = s.winCount ∧ s.completeOk.byteCount = s.byteCount ∧
    s.completeOk.presentCount = s.presentCount ∧ s.completeOk.present = s.present ∧
    s.completeOk.shardAddr = s.shardAddr ∧ s.completeOk.shardLen = s.shardLen ∧ s.completeOk.aluA = s.aluA ∧
    s.completeOk.aluB = s.aluB ∧ s.completeOk.aluN = s.aluN ∧ s.completeOk.aluR = s.aluR ∧
    s.completeOk.matArgRows = s.matArgRows ∧ s.completeOk.matArgCols = s.matArgCols ∧ s.completeOk.idxR = s.idxR ∧
    s.completeOk.idxC = s.idxC ∧ s.completeOk.mats = s.mats ∧ s.completeOk.shmem = s.shmem ∧
    s.completeOk.shmemSize = s.shmemSize ∧ s.completeOk.resets = s.resets ∧ s.completeOk.host = s.host := by
  repeat' (first | exact rfl | apply And.intro)

/-- The fields after a completion with an error (40 R205). -/
@[simp] theorem completeErr_fields (s : State) (e : CmdError) :
    (s.completeErr e).busy = false ∧ (s.completeErr e).done = true ∧ (s.completeErr e).err = true ∧
    (s.completeErr e).errCode = e.code.value ∧ (s.completeErr e).errInfo = e.info ∧
    (s.completeErr e).doneIp = true ∧ (s.completeErr e).configured = s.configured ∧
    (s.completeErr e).verifyOk = s.verifyOk ∧ (s.completeErr e).cmd = s.cmd ∧ (s.completeErr e).doneIe = s.doneIe ∧
    (s.completeErr e).cfgD = s.cfgD ∧ (s.completeErr e).cfgP = s.cfgP ∧ (s.completeErr e).nData = s.nData ∧
    (s.completeErr e).nParity = s.nParity ∧ (s.completeErr e).nTotal = s.nTotal ∧ (s.completeErr e).cm = s.cm ∧
    (s.completeErr e).shardCount = s.shardCount ∧ (s.completeErr e).hint = s.hint ∧
    (s.completeErr e).winStart = s.winStart ∧ (s.completeErr e).winCount = s.winCount ∧
    (s.completeErr e).byteCount = s.byteCount ∧ (s.completeErr e).presentCount = s.presentCount ∧
    (s.completeErr e).present = s.present ∧ (s.completeErr e).shardAddr = s.shardAddr ∧
    (s.completeErr e).shardLen = s.shardLen ∧ (s.completeErr e).aluA = s.aluA ∧ (s.completeErr e).aluB = s.aluB ∧
    (s.completeErr e).aluN = s.aluN ∧ (s.completeErr e).aluR = s.aluR ∧
    (s.completeErr e).matArgRows = s.matArgRows ∧ (s.completeErr e).matArgCols = s.matArgCols ∧
    (s.completeErr e).idxR = s.idxR ∧ (s.completeErr e).idxC = s.idxC ∧ (s.completeErr e).mats = s.mats ∧
    (s.completeErr e).shmem = s.shmem ∧ (s.completeErr e).shmemSize = s.shmemSize ∧
    (s.completeErr e).resets = s.resets ∧ (s.completeErr e).host = s.host := by
  repeat' (first | exact rfl | apply And.intro)

/-- The fields after a destination write (42 R301). -/
@[simp] theorem setMat_fields (s : State) (d : MatReg) (x : Mat) :
    (s.setMat d x).mats = s.mats.set d.val x ∧ (s.setMat d x).busy = s.busy ∧ (s.setMat d x).done = s.done ∧
    (s.setMat d x).err = s.err ∧ (s.setMat d x).configured = s.configured ∧ (s.setMat d x).verifyOk = s.verifyOk ∧
    (s.setMat d x).cmd = s.cmd ∧ (s.setMat d x).errCode = s.errCode ∧ (s.setMat d x).errInfo = s.errInfo ∧
    (s.setMat d x).doneIe = s.doneIe ∧ (s.setMat d x).doneIp = s.doneIp ∧ (s.setMat d x).cfgD = s.cfgD ∧
    (s.setMat d x).cfgP = s.cfgP ∧ (s.setMat d x).nData = s.nData ∧ (s.setMat d x).nParity = s.nParity ∧
    (s.setMat d x).nTotal = s.nTotal ∧ (s.setMat d x).cm = s.cm ∧ (s.setMat d x).shardCount = s.shardCount ∧
    (s.setMat d x).hint = s.hint ∧ (s.setMat d x).winStart = s.winStart ∧ (s.setMat d x).winCount = s.winCount ∧
    (s.setMat d x).byteCount = s.byteCount ∧ (s.setMat d x).presentCount = s.presentCount ∧
    (s.setMat d x).present = s.present ∧ (s.setMat d x).shardAddr = s.shardAddr ∧
    (s.setMat d x).shardLen = s.shardLen ∧ (s.setMat d x).aluA = s.aluA ∧ (s.setMat d x).aluB = s.aluB ∧
    (s.setMat d x).aluN = s.aluN ∧ (s.setMat d x).aluR = s.aluR ∧ (s.setMat d x).matArgRows = s.matArgRows ∧
    (s.setMat d x).matArgCols = s.matArgCols ∧ (s.setMat d x).idxR = s.idxR ∧ (s.setMat d x).idxC = s.idxC ∧
    (s.setMat d x).shmem = s.shmem ∧ (s.setMat d x).shmemSize = s.shmemSize ∧ (s.setMat d x).resets = s.resets ∧
    (s.setMat d x).host = s.host := by
  repeat' (first | exact rfl | apply And.intro)

/-- The fields after the verdict of VERIFY (43 R393). -/
@[simp] theorem setVerifyOk_fields (s : State) (ok : Bool) :
    (s.setVerifyOk ok).verifyOk = ok ∧ (s.setVerifyOk ok).busy = s.busy ∧ (s.setVerifyOk ok).done = s.done ∧
    (s.setVerifyOk ok).err = s.err ∧ (s.setVerifyOk ok).configured = s.configured ∧ (s.setVerifyOk ok).cmd = s.cmd ∧
    (s.setVerifyOk ok).errCode = s.errCode ∧ (s.setVerifyOk ok).errInfo = s.errInfo ∧
    (s.setVerifyOk ok).doneIe = s.doneIe ∧ (s.setVerifyOk ok).doneIp = s.doneIp ∧ (s.setVerifyOk ok).cfgD = s.cfgD ∧
    (s.setVerifyOk ok).cfgP = s.cfgP ∧ (s.setVerifyOk ok).nData = s.nData ∧ (s.setVerifyOk ok).nParity = s.nParity ∧
    (s.setVerifyOk ok).nTotal = s.nTotal ∧ (s.setVerifyOk ok).cm = s.cm ∧
    (s.setVerifyOk ok).shardCount = s.shardCount ∧ (s.setVerifyOk ok).hint = s.hint ∧
    (s.setVerifyOk ok).winStart = s.winStart ∧ (s.setVerifyOk ok).winCount = s.winCount ∧
    (s.setVerifyOk ok).byteCount = s.byteCount ∧ (s.setVerifyOk ok).presentCount = s.presentCount ∧
    (s.setVerifyOk ok).present = s.present ∧ (s.setVerifyOk ok).shardAddr = s.shardAddr ∧
    (s.setVerifyOk ok).shardLen = s.shardLen ∧ (s.setVerifyOk ok).aluA = s.aluA ∧ (s.setVerifyOk ok).aluB = s.aluB ∧
    (s.setVerifyOk ok).aluN = s.aluN ∧ (s.setVerifyOk ok).aluR = s.aluR ∧
    (s.setVerifyOk ok).matArgRows = s.matArgRows ∧ (s.setVerifyOk ok).matArgCols = s.matArgCols ∧
    (s.setVerifyOk ok).idxR = s.idxR ∧ (s.setVerifyOk ok).idxC = s.idxC ∧ (s.setVerifyOk ok).mats = s.mats ∧
    (s.setVerifyOk ok).shmem = s.shmem ∧ (s.setVerifyOk ok).shmemSize = s.shmemSize ∧
    (s.setVerifyOk ok).resets = s.resets ∧ (s.setVerifyOk ok).host = s.host := by
  repeat' (first | exact rfl | apply And.intro)

/-- The fields after a field result (10 R57). -/
@[simp] theorem setAluR_fields (s : State) (v : Byte) :
    (s.setAluR v).aluR = v ∧ (s.setAluR v).busy = s.busy ∧ (s.setAluR v).done = s.done ∧ (s.setAluR v).err = s.err ∧
    (s.setAluR v).configured = s.configured ∧ (s.setAluR v).verifyOk = s.verifyOk ∧ (s.setAluR v).cmd = s.cmd ∧
    (s.setAluR v).errCode = s.errCode ∧ (s.setAluR v).errInfo = s.errInfo ∧ (s.setAluR v).doneIe = s.doneIe ∧
    (s.setAluR v).doneIp = s.doneIp ∧ (s.setAluR v).cfgD = s.cfgD ∧ (s.setAluR v).cfgP = s.cfgP ∧
    (s.setAluR v).nData = s.nData ∧ (s.setAluR v).nParity = s.nParity ∧ (s.setAluR v).nTotal = s.nTotal ∧
    (s.setAluR v).cm = s.cm ∧ (s.setAluR v).shardCount = s.shardCount ∧ (s.setAluR v).hint = s.hint ∧
    (s.setAluR v).winStart = s.winStart ∧ (s.setAluR v).winCount = s.winCount ∧
    (s.setAluR v).byteCount = s.byteCount ∧ (s.setAluR v).presentCount = s.presentCount ∧
    (s.setAluR v).present = s.present ∧ (s.setAluR v).shardAddr = s.shardAddr ∧
    (s.setAluR v).shardLen = s.shardLen ∧ (s.setAluR v).aluA = s.aluA ∧ (s.setAluR v).aluB = s.aluB ∧
    (s.setAluR v).aluN = s.aluN ∧ (s.setAluR v).matArgRows = s.matArgRows ∧
    (s.setAluR v).matArgCols = s.matArgCols ∧ (s.setAluR v).idxR = s.idxR ∧ (s.setAluR v).idxC = s.idxC ∧
    (s.setAluR v).mats = s.mats ∧ (s.setAluR v).shmem = s.shmem ∧ (s.setAluR v).shmemSize = s.shmemSize ∧
    (s.setAluR v).resets = s.resets ∧ (s.setAluR v).host = s.host := by
  repeat' (first | exact rfl | apply And.intro)

/-- The fields after a byte count (10 R51). -/
@[simp] theorem setByteCount_fields (s : State) (v : Word) :
    (s.setByteCount v).byteCount = v ∧ (s.setByteCount v).busy = s.busy ∧ (s.setByteCount v).done = s.done ∧
    (s.setByteCount v).err = s.err ∧ (s.setByteCount v).configured = s.configured ∧
    (s.setByteCount v).verifyOk = s.verifyOk ∧ (s.setByteCount v).cmd = s.cmd ∧
    (s.setByteCount v).errCode = s.errCode ∧ (s.setByteCount v).errInfo = s.errInfo ∧
    (s.setByteCount v).doneIe = s.doneIe ∧ (s.setByteCount v).doneIp = s.doneIp ∧ (s.setByteCount v).cfgD = s.cfgD ∧
    (s.setByteCount v).cfgP = s.cfgP ∧ (s.setByteCount v).nData = s.nData ∧ (s.setByteCount v).nParity = s.nParity ∧
    (s.setByteCount v).nTotal = s.nTotal ∧ (s.setByteCount v).cm = s.cm ∧
    (s.setByteCount v).shardCount = s.shardCount ∧ (s.setByteCount v).hint = s.hint ∧
    (s.setByteCount v).winStart = s.winStart ∧ (s.setByteCount v).winCount = s.winCount ∧
    (s.setByteCount v).presentCount = s.presentCount ∧ (s.setByteCount v).present = s.present ∧
    (s.setByteCount v).shardAddr = s.shardAddr ∧ (s.setByteCount v).shardLen = s.shardLen ∧
    (s.setByteCount v).aluA = s.aluA ∧ (s.setByteCount v).aluB = s.aluB ∧ (s.setByteCount v).aluN = s.aluN ∧
    (s.setByteCount v).aluR = s.aluR ∧ (s.setByteCount v).matArgRows = s.matArgRows ∧
    (s.setByteCount v).matArgCols = s.matArgCols ∧ (s.setByteCount v).idxR = s.idxR ∧
    (s.setByteCount v).idxC = s.idxC ∧ (s.setByteCount v).mats = s.mats ∧ (s.setByteCount v).shmem = s.shmem ∧
    (s.setByteCount v).shmemSize = s.shmemSize ∧ (s.setByteCount v).resets = s.resets ∧
    (s.setByteCount v).host = s.host := by
  repeat' (first | exact rfl | apply And.intro)

/-- The fields after the commit of CONFIGURE (43 R380). -/
@[simp] theorem setConfig_fields (s : State) (d p : Nat) (x : Mat) :
    (s.setConfig d p x).configured = true ∧ (s.setConfig d p x).nData = BitVec.ofNat 32 d ∧
    (s.setConfig d p x).nParity = BitVec.ofNat 32 p ∧ (s.setConfig d p x).nTotal = BitVec.ofNat 32 (d + p) ∧
    (s.setConfig d p x).cm = x ∧ (s.setConfig d p x).busy = s.busy ∧ (s.setConfig d p x).done = s.done ∧
    (s.setConfig d p x).err = s.err ∧ (s.setConfig d p x).verifyOk = s.verifyOk ∧ (s.setConfig d p x).cmd = s.cmd ∧
    (s.setConfig d p x).errCode = s.errCode ∧ (s.setConfig d p x).errInfo = s.errInfo ∧
    (s.setConfig d p x).doneIe = s.doneIe ∧ (s.setConfig d p x).doneIp = s.doneIp ∧
    (s.setConfig d p x).cfgD = s.cfgD ∧ (s.setConfig d p x).cfgP = s.cfgP ∧
    (s.setConfig d p x).shardCount = s.shardCount ∧ (s.setConfig d p x).hint = s.hint ∧
    (s.setConfig d p x).winStart = s.winStart ∧ (s.setConfig d p x).winCount = s.winCount ∧
    (s.setConfig d p x).byteCount = s.byteCount ∧ (s.setConfig d p x).presentCount = s.presentCount ∧
    (s.setConfig d p x).present = s.present ∧ (s.setConfig d p x).shardAddr = s.shardAddr ∧
    (s.setConfig d p x).shardLen = s.shardLen ∧ (s.setConfig d p x).aluA = s.aluA ∧
    (s.setConfig d p x).aluB = s.aluB ∧ (s.setConfig d p x).aluN = s.aluN ∧ (s.setConfig d p x).aluR = s.aluR ∧
    (s.setConfig d p x).matArgRows = s.matArgRows ∧ (s.setConfig d p x).matArgCols = s.matArgCols ∧
    (s.setConfig d p x).idxR = s.idxR ∧ (s.setConfig d p x).idxC = s.idxC ∧ (s.setConfig d p x).mats = s.mats ∧
    (s.setConfig d p x).shmem = s.shmem ∧ (s.setConfig d p x).shmemSize = s.shmemSize ∧
    (s.setConfig d p x).resets = s.resets ∧ (s.setConfig d p x).host = s.host := by
  repeat' (first | exact rfl | apply And.intro)

/-- The fields after the updates of ENCODE (43 R390). -/
@[simp] theorem encodeShards_fields (s : State) (len : Nat) :
    (s.encodeShards len).shmem = s.writeSlots (fun r => s.parity r len) s.shmem s.paritySlots ∧
    (s.encodeShards len).busy = s.busy ∧ (s.encodeShards len).done = s.done ∧ (s.encodeShards len).err = s.err ∧
    (s.encodeShards len).configured = s.configured ∧ (s.encodeShards len).verifyOk = s.verifyOk ∧
    (s.encodeShards len).cmd = s.cmd ∧ (s.encodeShards len).errCode = s.errCode ∧
    (s.encodeShards len).errInfo = s.errInfo ∧ (s.encodeShards len).doneIe = s.doneIe ∧
    (s.encodeShards len).doneIp = s.doneIp ∧ (s.encodeShards len).cfgD = s.cfgD ∧
    (s.encodeShards len).cfgP = s.cfgP ∧ (s.encodeShards len).nData = s.nData ∧
    (s.encodeShards len).nParity = s.nParity ∧ (s.encodeShards len).nTotal = s.nTotal ∧
    (s.encodeShards len).cm = s.cm ∧ (s.encodeShards len).shardCount = s.shardCount ∧
    (s.encodeShards len).hint = s.hint ∧ (s.encodeShards len).winStart = s.winStart ∧
    (s.encodeShards len).winCount = s.winCount ∧ (s.encodeShards len).byteCount = s.byteCount ∧
    (s.encodeShards len).presentCount = s.presentCount ∧ (s.encodeShards len).present = s.present ∧
    (s.encodeShards len).shardAddr = s.shardAddr ∧ (s.encodeShards len).shardLen = s.shardLen ∧
    (s.encodeShards len).aluA = s.aluA ∧ (s.encodeShards len).aluB = s.aluB ∧ (s.encodeShards len).aluN = s.aluN ∧
    (s.encodeShards len).aluR = s.aluR ∧ (s.encodeShards len).matArgRows = s.matArgRows ∧
    (s.encodeShards len).matArgCols = s.matArgCols ∧ (s.encodeShards len).idxR = s.idxR ∧
    (s.encodeShards len).idxC = s.idxC ∧ (s.encodeShards len).mats = s.mats ∧
    (s.encodeShards len).shmemSize = s.shmemSize ∧ (s.encodeShards len).resets = s.resets ∧
    (s.encodeShards len).host = s.host := by
  repeat' (first | exact rfl | apply And.intro)

/-- The fields after the updates of RECONSTRUCT (43 R395). -/
@[simp] theorem reconstructShards_fields (s : State) (inv : Mat) (len : Nat) :
    (s.reconstructShards inv len).present = setPresent s.present (s.absentSlots s.nTotal.toNat) ∧
    (s.reconstructShards inv len).shardLen = setLens s.shardLen (s.absentSlots s.nTotal.toNat) (BitVec.ofNat 32 len) ∧
    (s.reconstructShards inv len).shmem = s.writeSlots (fun i => s.restored inv len i) s.shmem (s.absentSlots s.nTotal.toNat) ∧
    (s.reconstructShards inv len).busy = s.busy ∧ (s.reconstructShards inv len).done = s.done ∧
    (s.reconstructShards inv len).err = s.err ∧ (s.reconstructShards inv len).configured = s.configured ∧
    (s.reconstructShards inv len).verifyOk = s.verifyOk ∧ (s.reconstructShards inv len).cmd = s.cmd ∧
    (s.reconstructShards inv len).errCode = s.errCode ∧ (s.reconstructShards inv len).errInfo = s.errInfo ∧
    (s.reconstructShards inv len).doneIe = s.doneIe ∧ (s.reconstructShards inv len).doneIp = s.doneIp ∧
    (s.reconstructShards inv len).cfgD = s.cfgD ∧ (s.reconstructShards inv len).cfgP = s.cfgP ∧
    (s.reconstructShards inv len).nData = s.nData ∧ (s.reconstructShards inv len).nParity = s.nParity ∧
    (s.reconstructShards inv len).nTotal = s.nTotal ∧ (s.reconstructShards inv len).cm = s.cm ∧
    (s.reconstructShards inv len).shardCount = s.shardCount ∧ (s.reconstructShards inv len).hint = s.hint ∧
    (s.reconstructShards inv len).winStart = s.winStart ∧ (s.reconstructShards inv len).winCount = s.winCount ∧
    (s.reconstructShards inv len).byteCount = s.byteCount ∧
    (s.reconstructShards inv len).presentCount = s.presentCount ∧
    (s.reconstructShards inv len).shardAddr = s.shardAddr ∧ (s.reconstructShards inv len).aluA = s.aluA ∧
    (s.reconstructShards inv len).aluB = s.aluB ∧ (s.reconstructShards inv len).aluN = s.aluN ∧
    (s.reconstructShards inv len).aluR = s.aluR ∧ (s.reconstructShards inv len).matArgRows = s.matArgRows ∧
    (s.reconstructShards inv len).matArgCols = s.matArgCols ∧ (s.reconstructShards inv len).idxR = s.idxR ∧
    (s.reconstructShards inv len).idxC = s.idxC ∧ (s.reconstructShards inv len).mats = s.mats ∧
    (s.reconstructShards inv len).shmemSize = s.shmemSize ∧ (s.reconstructShards inv len).resets = s.resets ∧
    (s.reconstructShards inv len).host = s.host := by
  repeat' (first | exact rfl | apply And.intro)

/-- The fields after the host's answer. -/
@[simp] theorem respond_fields (s : State) (r : Response) :
    (s.respond r).host = { s.host with response := r } ∧ (s.respond r).busy = s.busy ∧ (s.respond r).done = s.done ∧
    (s.respond r).err = s.err ∧ (s.respond r).configured = s.configured ∧ (s.respond r).verifyOk = s.verifyOk ∧
    (s.respond r).cmd = s.cmd ∧ (s.respond r).errCode = s.errCode ∧ (s.respond r).errInfo = s.errInfo ∧
    (s.respond r).doneIe = s.doneIe ∧ (s.respond r).doneIp = s.doneIp ∧ (s.respond r).cfgD = s.cfgD ∧
    (s.respond r).cfgP = s.cfgP ∧ (s.respond r).nData = s.nData ∧ (s.respond r).nParity = s.nParity ∧
    (s.respond r).nTotal = s.nTotal ∧ (s.respond r).cm = s.cm ∧ (s.respond r).shardCount = s.shardCount ∧
    (s.respond r).hint = s.hint ∧ (s.respond r).winStart = s.winStart ∧ (s.respond r).winCount = s.winCount ∧
    (s.respond r).byteCount = s.byteCount ∧ (s.respond r).presentCount = s.presentCount ∧
    (s.respond r).present = s.present ∧ (s.respond r).shardAddr = s.shardAddr ∧
    (s.respond r).shardLen = s.shardLen ∧ (s.respond r).aluA = s.aluA ∧ (s.respond r).aluB = s.aluB ∧
    (s.respond r).aluN = s.aluN ∧ (s.respond r).aluR = s.aluR ∧ (s.respond r).matArgRows = s.matArgRows ∧
    (s.respond r).matArgCols = s.matArgCols ∧ (s.respond r).idxR = s.idxR ∧ (s.respond r).idxC = s.idxC ∧
    (s.respond r).mats = s.mats ∧ (s.respond r).shmem = s.shmem ∧ (s.respond r).shmemSize = s.shmemSize ∧
    (s.respond r).resets = s.resets := by
  repeat' (first | exact rfl | apply And.intro)

/-- The fields after the moves still to come. -/
@[simp] theorem withMoves_fields (s : State) (ms : List Move) :
    (s.withMoves ms).host = { s.host with moves := ms } ∧ (s.withMoves ms).busy = s.busy ∧
    (s.withMoves ms).done = s.done ∧ (s.withMoves ms).err = s.err ∧ (s.withMoves ms).configured = s.configured ∧
    (s.withMoves ms).verifyOk = s.verifyOk ∧ (s.withMoves ms).cmd = s.cmd ∧ (s.withMoves ms).errCode = s.errCode ∧
    (s.withMoves ms).errInfo = s.errInfo ∧ (s.withMoves ms).doneIe = s.doneIe ∧ (s.withMoves ms).doneIp = s.doneIp ∧
    (s.withMoves ms).cfgD = s.cfgD ∧ (s.withMoves ms).cfgP = s.cfgP ∧ (s.withMoves ms).nData = s.nData ∧
    (s.withMoves ms).nParity = s.nParity ∧ (s.withMoves ms).nTotal = s.nTotal ∧ (s.withMoves ms).cm = s.cm ∧
    (s.withMoves ms).shardCount = s.shardCount ∧ (s.withMoves ms).hint = s.hint ∧
    (s.withMoves ms).winStart = s.winStart ∧ (s.withMoves ms).winCount = s.winCount ∧
    (s.withMoves ms).byteCount = s.byteCount ∧ (s.withMoves ms).presentCount = s.presentCount ∧
    (s.withMoves ms).present = s.present ∧ (s.withMoves ms).shardAddr = s.shardAddr ∧
    (s.withMoves ms).shardLen = s.shardLen ∧ (s.withMoves ms).aluA = s.aluA ∧ (s.withMoves ms).aluB = s.aluB ∧
    (s.withMoves ms).aluN = s.aluN ∧ (s.withMoves ms).aluR = s.aluR ∧ (s.withMoves ms).matArgRows = s.matArgRows ∧
    (s.withMoves ms).matArgCols = s.matArgCols ∧ (s.withMoves ms).idxR = s.idxR ∧ (s.withMoves ms).idxC = s.idxC ∧
    (s.withMoves ms).mats = s.mats ∧ (s.withMoves ms).shmem = s.shmem ∧ (s.withMoves ms).shmemSize = s.shmemSize ∧
    (s.withMoves ms).resets = s.resets := by
  repeat' (first | exact rfl | apply And.intro)

/-- A reset keeps the parameter and the host agent, counts itself, and leaves every other field at its reset value
(70 R551). -/
@[simp] theorem hardReset_fields (s : State) :
    s.hardReset.shmemSize = s.shmemSize ∧ s.hardReset.resets = s.resets + 1 ∧ s.hardReset.host = s.host ∧
    s.hardReset = { State.reset with shmemSize := s.shmemSize, resets := s.resets + 1, host := s.host } := by
  repeat' (first | exact rfl | apply And.intro)

/-- Reading a matrix register after a destination write (42 R301). -/
@[simp] theorem mat_setMat (s : State) (d m : MatReg) (x : Mat) :
    (s.setMat d x).mat m = if m = d then x else s.mat m := by
  by_cases h : m = d
  · subst h; simp [State.mat]
  · have : ¬ d.val = m.val := fun e => h (Fin.ext e.symm)
    simp [State.mat, h, this]

/-- Bytes of shard memory depend on the memory and the draws alone (10 R63). -/
theorem byteAt_congr {s t : State} (hm : t.shmem = s.shmem) (hr : t.resets = s.resets) (a : Nat) :
    t.byteAt a = s.byteAt a := by simp [State.byteAt, hm, hr]

end Sys2Proof.Machine
end

