-- ==== Sys2Proof/Laws/Bus.lean ====
section
/-! SUPPORT. What a host access can do, and the packed words of the window. -/

namespace Sys2Proof.Machine

/-- An access that is admitted (60 R508). -/
theorem reachedLoc_ok {s : State} {wr : Bool} {bits offset : Nat} {l : Loc} (h : reachedLoc s wr bits offset = .ok l) :
    bits = 32 ∧ offset % 4 = 0 ∧ locate s.shmemSize offset = some l ∧
      (s.busy = true → openWhileBusy wr l = true) := by
  unfold reachedLoc at h
  split_ifs at h with h1 h2
  split at h
  · simp at h
  · rename_i l' hl
    split_ifs at h with hb
    simp only [Except.ok.injEq] at h
    subst h
    refine ⟨by simpa using h1, by simpa using h2, hl, fun hbusy => ?_⟩
    simpa [hbusy] using hb

/-- A host read that answers a next state: it has the location's value, and nothing else has changed (20 R109). -/
theorem hostRead_next {bits offset : Nat} {s t : State} (h : hostRead bits offset s = .next t) :
    ∃ l v, reachedLoc s false bits offset = .ok l ∧ s.readLoc l = some v ∧ t = s.respond (.data v) := by
  unfold hostRead at h
  split at h
  · simp at h
  · rename_i l hl
    split at h
    · simp at h
    · rename_i v hv
      exact ⟨l, v, hl, hv, by simpa [eq_comm] using h⟩

/-- A host write that answers a next state. -/
theorem hostWrite_next {bits offset : Nat} {v : Word} {s t : State} (h : hostWrite bits offset v s = .next t) :
    ∃ l u, reachedLoc s true bits offset = .ok l ∧ s.writeLoc v l = some u ∧ t = u.respond .done := by
  unfold hostWrite at h
  split at h
  · simp at h
  · rename_i l hl
    split at h
    · simp at h
    · rename_i u hu
      exact ⟨l, u, hl, hu, by simpa [eq_comm] using h⟩

/-- With BUSY = 0 a 32-bit read at a mapped word whose location has a value completes with it (20 R103, R109). -/
theorem hostRead_idle {s : State} {o : Nat} {l : Loc} {v : Word} (hb : s.busy = false) (h4 : o % 4 = 0)
    (hl : locate s.shmemSize o = some l) (hv : s.readLoc l = some v) : hostRead 32 o s = .next (s.respond (.data v)) := by
  have ha : reachedLoc s false 32 o = .ok l := by simp only [reachedLoc, h4, hl, hb]; rfl
  simp only [hostRead, ha, hv]

/-- A host access never is refused. -/
theorem hostAccess_not_refused (a : Access) (s : State) (r : Refusal) : hostAccess a s ≠ .refused r := by
  cases a <;> simp only [hostAccess, hostRead, hostWrite] <;> split <;> (try split) <;> simp

/-- A SHMEM location of the map lies inside SHMEM, at a multiple of 4 (20 R102, R110). -/
theorem locate_shmem {size o a : Nat} (h : locate size o = some (.shmem a)) :
    a % 4 = 0 ∧ a < size ∧ o = 0x1000000 + a := by
  unfold locate at h
  split_ifs at h with h4 h5
  · have hm := List.mem_of_getElem? h
    simp [registerLocs] at hm
  · split at h
    · rename_i l hl
      simp only [Option.some.injEq] at h
      subst h
      unfold locateArray at hl
      split_ifs at hl <;> simp at hl
    · unfold locateWindow at h
      split_ifs at h with h6 h7 h8
      all_goals simp only [Option.some.injEq, reduceCtorEq, Loc.shmem.injEq] at h
      omega

/-- A lane of an accepted matrix word (20 R111). -/
theorem laneOf_readMatWord (a : Mat) (cols r w b : Nat) (h : b < 4) :
    laneOf (readMatWord a cols r w) b = if 4 * w + b < cols then a.at r (4 * w + b) else 0#8 := by
  simp [readMatWord, laneOf_packLanes _ _ h]

/-- A matrix window write keeps the dimensions (42 R318). -/
@[simp] theorem dims_writeMatWord (a : Mat) (r w : Nat) (v : Word) :
    (writeMatWord a r w v).rows = a.rows ∧ (writeMatWord a r w v).cols = a.cols := ⟨rfl, rfl⟩

/-- The elements after a matrix window write (20 R111). -/
theorem at_writeMatWord {a : Mat} {r w i j : Nat} (v : Word) (hi : i < a.rows) (hj : j < a.cols) :
    (writeMatWord a r w v).at i j =
      if i = r ∧ 4 * w ≤ j ∧ j < 4 * w + 4 then laneOf v (j - 4 * w) else a.at i j := at_build _ hi hj

/-- A matrix window write keeps the canonical form. -/
theorem wf_writeMatWord {a : Mat} (r w : Nat) (v : Word) (h : a.wf = true) (h0 : a.rows ≠ 0) :
    (writeMatWord a r w v).wf = true := by
  have hw := h
  simp only [Mat.wf, Bool.and_eq_true, decide_eq_true_eq] at hw
  obtain ⟨⟨⟨⟨h1, h2⟩, h3⟩, -⟩, -⟩ := hw
  have h1 : a.rows ≤ 256 := h1
  have h2 : a.cols ≤ 512 := h2
  have hc : a.cols ≠ 0 := fun e => h0 (h3.2 e)
  exact wf_build _ ⟨by omega, h1, by omega, h2⟩

/-- PRESENT after a write of word w (10 R53). -/
theorem getLsbD_setPresentWord (p : BitVec 256) (w : Nat) (v : Word) (k : Nat) (hk : k < 256) :
    (setPresentWord p w v).getLsbD k =
      if 32 * w ≤ k ∧ k < 32 * w + 32 then v.getLsbD (k - 32 * w) else p.getLsbD k := by
  have e : ∀ i, i < 256 → ((0xFFFFFFFF#32).setWidth 256).getLsbD i = decide (i < 32) := by decide +kernel
  simp only [setPresentWord, BitVec.getLsbD_or, BitVec.getLsbD_and, BitVec.getLsbD_not, BitVec.getLsbD_shiftLeft, hk,
    decide_true, Bool.true_and]
  by_cases h1 : k < 32 * w
  · have : ¬(32 * w ≤ k ∧ k < 32 * w + 32) := by omega
    simp [h1, this]
  · rw [e _ (by omega)]
    by_cases h2 : k < 32 * w + 32
    · have h3 : k - 32 * w < 32 := by omega
      have h4 : 32 * w ≤ k ∧ k < 32 * w + 32 := by omega
      simp [h1, h3, h4, show k - 32 * w < 256 by omega]
    · have h3 : ¬ k - 32 * w < 32 := by omega
      have h4 : ¬(32 * w ≤ k ∧ k < 32 * w + 32) := by omega
      have h5 : v.getLsbD (k - 32 * w) = false := BitVec.getLsbD_of_ge _ _ (by omega)
      simp [h1, h3, h4, h5]

end Sys2Proof.Machine
end

