-- ==== Sys2Proof/Laws/Checks.lean ====
section
/-! SUPPORT. When each shared check passes, and what each command rule has done when it reaches its end. -/

namespace Sys2Proof.Machine

/-! ### The checks -/

@[simp] theorem checkConfigured_ok (s : State) : checkConfigured s = .ok () ↔ s.configured = true := by
  unfold checkConfigured; split <;> simp_all [raise]

@[simp] theorem checkCount_ok (s : State) : checkCount s = .ok () ↔ s.shardCount = s.nTotal := by
  unfold checkCount
  split_ifs with h1 h2
  · simp only [raise, reduceCtorEq, false_iff]; rintro e; rw [e] at h1; omega
  · simp only [raise, reduceCtorEq, false_iff]; rintro e; rw [e] at h2; omega
  · simp only [true_iff]; exact BitVec.eq_of_toNat_eq (by omega)

@[simp] theorem checkSizes_ok (s : State) (slots : List Nat) (len : Nat) :
    checkSizes s slots len = .ok () ↔ ∀ i ∈ slots, s.lenOf i ≠ 0 ∧ s.lenOf i = len := by
  unfold checkSizes
  split <;> rename_i h
  · have hm := List.mem_of_find?_eq_some h
    have hp := List.find?_some h
    simp only [raise, reduceCtorEq, false_iff]
    rintro hall
    have := hall _ hm
    simp_all
  · simpa [List.find?_eq_none] using h

@[simp] theorem checkDenseSizes_ok (s : State) (len : Nat) :
    checkDenseSizes s = .ok len ↔
      s.lenOf 0 = len ∧ ∀ i, i < s.nTotal.toNat → s.lenOf i ≠ 0 ∧ s.lenOf i = s.lenOf 0 := by
  unfold checkDenseSizes
  split <;> rename_i h
  · have : ¬ checkSizes s (List.range s.nTotal.toNat) (s.lenOf 0) = .ok () := by rw [h]; simp
    rw [checkSizes_ok] at this
    simp only [List.mem_range] at this
    simp only [reduceCtorEq, false_iff]
    rintro ⟨-, h2⟩
    exact this h2
  · have := (checkSizes_ok s _ _).1 h
    simp only [List.mem_range] at this
    simp only [Except.ok.injEq]
    exact ⟨fun e => ⟨e, this⟩, fun e => e.1⟩

@[simp] theorem checkBounds_ok (s : State) (slots : List Nat) (len : Nat) :
    checkBounds s slots len = .ok () ↔ ∀ i ∈ slots, s.addrOf i + len ≤ s.shmemSize := by
  unfold checkBounds
  split <;> rename_i h
  · have hm := List.mem_of_find?_eq_some h
    have hp := List.find?_some h
    simp only [raise, reduceCtorEq, false_iff]
    rintro hall
    have := hall _ hm
    simp only [decide_eq_true_eq] at hp
    omega
  · simpa [List.find?_eq_none] using h

/-- Two buffers of length `len` share no address iff they do not overlap (40 R209). -/
theorem overlap_false (s : State) (i j len : Nat) :
    s.overlap i j len = false ↔ s.addrOf j + len ≤ s.addrOf i ∨ s.addrOf i + len ≤ s.addrOf j := by
  simp only [State.overlap, Bool.and_eq_false_iff, decide_eq_false_iff_not]; omega

@[simp] theorem checkOverlap_ok (s : State) (slots written : List Nat) (len : Nat) :
    checkOverlap s slots written len = .ok () ↔
      ∀ i ∈ written, ∀ j ∈ slots, j ≠ i → s.overlap i j len = false := by
  unfold checkOverlap
  split <;> rename_i h
  · have hm := List.mem_of_find?_eq_some h
    have hp := List.find?_some h
    simp only [raise, reduceCtorEq, false_iff]
    rintro hall
    simp only [List.any_eq_true, Bool.and_eq_true, bne_iff_ne] at hp
    obtain ⟨j, hj, hne, ho⟩ := hp
    simp [hall _ hm j hj hne] at ho
  · simpa [List.find?_eq_none] using h

@[simp] theorem checkTableSize_ok (s : State) : checkTableSize s = .ok () ↔ s.shardCount.toNat ≤ 256 := by
  unfold checkTableSize nSlots; split_ifs with h <;> simp [raise] <;> omega

@[simp] theorem checkPresent_ok (s : State) (slots : List Nat) :
    checkPresent s slots = .ok () ↔ ∀ i ∈ slots, s.isPresent i = true := by
  unfold checkPresent
  split <;> rename_i h
  · have hm := List.mem_of_find?_eq_some h
    have hp := List.find?_some h
    simp only [raise, reduceCtorEq, false_iff]
    rintro hall
    simp [hall _ hm] at hp
  · simpa [List.find?_eq_none] using h

@[simp] theorem definedMat_ok (s : State) (m : MatReg) (a : Mat) :
    definedMat s m = .ok a ↔ (s.mat m).rows ≠ 0 ∧ s.mat m = a := by
  unfold definedMat; split_ifs with h <;> simp [raise, h]

@[simp] theorem checkDims_ok (r c : Nat) :
    checkDims r c = .ok () ↔ 1 ≤ r ∧ r ≤ 256 ∧ 1 ≤ c ∧ c ≤ 512 := by
  unfold checkDims matMaxRows matMaxCols; split_ifs with h <;> simp [raise] <;> omega

@[simp] theorem checkIndices_ok (s : State) (a : Mat) (r c : Nat) :
    checkIndices s a r c = .ok () ↔
      (∀ i, i < r → s.rowIndex i < a.rows) ∧ ∀ j, j < c → s.colIndex j < a.cols := by
  unfold checkIndices
  split <;> rename_i h
  · have hm := List.mem_of_find?_eq_some h
    have hp := List.find?_some h
    simp only [raise, reduceCtorEq, false_iff]
    rintro ⟨hall, -⟩
    have := hall _ (by simpa using hm)
    simp only [decide_eq_true_eq] at hp
    omega
  · have hr : ∀ i, i < r → s.rowIndex i < a.rows := by simpa [List.find?_eq_none] using h
    split <;> rename_i h2
    · have hm := List.mem_of_find?_eq_some h2
      have hp := List.find?_some h2
      simp only [raise, reduceCtorEq, false_iff]
      rintro ⟨-, hall⟩
      have := hall _ (by simpa using hm)
      simp only [decide_eq_true_eq] at hp
      omega
    · have hc : ∀ i, i < c → s.colIndex i < a.cols := by simpa [List.find?_eq_none] using h2
      simp only [true_iff]
      exact ⟨hr, hc⟩

/-! ### Chains of checks -/

/-- A chain of checks reaches its end iff each link does. -/
theorem bind_ok {α β : Type} {x : Except CmdError α} {f : α → Except CmdError β} {b : β} :
    (x >>= f) = .ok b ↔ ∃ a, x = .ok a ∧ f a = .ok b := by
  cases x <;> simp [bind, Except.bind]

/-- A check answers nothing but that it passes. -/
theorem exists_unit {p : Unit → Prop} : (∃ u, p u) ↔ p () := ⟨fun ⟨(), h⟩ => h, fun h => ⟨(), h⟩⟩

/-- The checks of ENCODE pass (43 R390). -/
theorem encodeChecks_ok (s : State) (len : Nat) :
    encodeChecks s = .ok len ↔ s.configured = true ∧ s.shardCount = s.nTotal ∧ s.lenOf 0 = len ∧
      (∀ i, i < s.nTotal.toNat → s.lenOf i ≠ 0 ∧ s.lenOf i = s.lenOf 0) ∧
      (∀ i ∈ s.allSlots, s.addrOf i + len ≤ s.shmemSize) ∧
      ∀ i ∈ s.paritySlots, ∀ j ∈ s.allSlots, j ≠ i → s.overlap i j len = false := by
  simp only [encodeChecks, bind_ok, exists_unit, checkConfigured_ok, checkCount_ok, checkDenseSizes_ok, checkBounds_ok,
    checkOverlap_ok, Except.ok.injEq]
  constructor
  · rintro ⟨h1, h2, l, ⟨h3, h4⟩, h5, h6, rfl⟩; exact ⟨h1, h2, h3, h4, h5, h6⟩
  · rintro ⟨h1, h2, h3, h4, h5, h6⟩; exact ⟨h1, h2, len, ⟨h3, h4⟩, h5, h6, rfl⟩

/-- The checks of VERIFY pass (43 R393). -/
theorem verifyChecks_ok (s : State) (len : Nat) :
    verifyChecks s = .ok len ↔ s.configured = true ∧ s.shardCount = s.nTotal ∧ s.lenOf 0 = len ∧
      (∀ i, i < s.nTotal.toNat → s.lenOf i ≠ 0 ∧ s.lenOf i = s.lenOf 0) ∧
      ∀ i ∈ s.allSlots, s.addrOf i + len ≤ s.shmemSize := by
  simp only [verifyChecks, bind_ok, exists_unit, checkConfigured_ok, checkCount_ok, checkDenseSizes_ok, checkBounds_ok,
    Except.ok.injEq]
  constructor
  · rintro ⟨h1, h2, l, ⟨h3, h4⟩, h5, rfl⟩; exact ⟨h1, h2, h3, h4, h5⟩
  · rintro ⟨h1, h2, h3, h4, h5⟩; exact ⟨h1, h2, len, ⟨h3, h4⟩, h5, rfl⟩

/-- The checks (1) to (4) of RECONSTRUCT pass (43 R395). -/
theorem reconstructChecks_ok (s : State) (len : Nat) :
    reconstructChecks s = .ok len ↔ s.configured = true ∧ s.shardCount = s.nTotal ∧
      s.nData.toNat ≤ (s.presentSlots s.nTotal.toNat).length ∧
      s.lenOf ((s.presentSlots s.nTotal.toNat).headD 0) = len ∧
      ∀ i ∈ s.presentSlots s.nTotal.toNat, s.lenOf i ≠ 0 ∧ s.lenOf i = len := by
  simp only [reconstructChecks, bind_ok, exists_unit, checkConfigured_ok, checkCount_ok]
  constructor
  · rintro ⟨h1, h2, h3⟩
    split_ifs at h3 with h
    · simp [raise] at h3
    · simp only [bind_ok, exists_unit, checkSizes_ok, Except.ok.injEq] at h3
      obtain ⟨h4, h5⟩ := h3
      subst h5
      exact ⟨h1, h2, by omega, rfl, h4⟩
  · rintro ⟨h1, h2, h3, h4, h5⟩
    refine ⟨h1, h2, ?_⟩
    rw [if_neg (by omega)]
    simp only [bind_ok, exists_unit, checkSizes_ok, Except.ok.injEq]
    subst h4
    exact ⟨h5, rfl⟩

/-! ### What each rule has done at its end -/

/-- CONFIGURE at its end (43 R380). -/
theorem configureRule_ok {s t : State} (h : configureRule s = .ok t) :
    s.cfgD.toNat ≠ 0 ∧ s.cfgP.toNat ≠ 0 ∧ s.cfgD.toNat + s.cfgP.toNat ≤ 256 ∧
      ∃ x, codingMatrix s.cfgD.toNat s.cfgP.toNat = .matrix x ∧ t = s.setConfig s.cfgD.toNat s.cfgP.toNat x := by
  unfold configureRule maxTotal at h
  split_ifs at h with hc
  · simp [raise] at h
  · split at h
    · simp [raise] at h
    · rename_i x hx
      simp only [Except.ok.injEq] at h
      exact ⟨by omega, by omega, by omega, x, hx, h.symm⟩

/-- ENCODE at its end (43 R390). -/
theorem encodeRule_ok {s t : State} (h : encodeRule s = .ok t) :
    ∃ len, encodeChecks s = .ok len ∧ t = s.encodeShards len := by
  simp only [encodeRule, bind_ok, Except.ok.injEq] at h
  obtain ⟨len, h1, h2⟩ := h
  exact ⟨len, h1, h2.symm⟩

/-- VERIFY at its end (43 R393). -/
theorem verifyRule_ok {s t : State} (h : verifyRule s = .ok t) :
    ∃ len, verifyChecks s = .ok len ∧ t = s.setVerifyOk (s.parityMatches len) := by
  simp only [verifyRule, bind_ok, Except.ok.injEq] at h
  obtain ⟨len, h1, h2⟩ := h
  exact ⟨len, h1, h2.symm⟩

/-- RECONSTRUCT at its end (43 R395): nothing to do, or every check has passed and the absent slots are filled. -/
theorem reconstructRule_ok {s t : State} (h : reconstructRule s = .ok t) :
    ∃ len, reconstructChecks s = .ok len ∧
      (((s.presentSlots s.nTotal.toNat).length = s.nTotal.toNat ∧ t = s) ∨
       ((s.presentSlots s.nTotal.toNat).length ≠ s.nTotal.toNat ∧
        (∀ i ∈ s.allSlots, s.addrOf i + len ≤ s.shmemSize) ∧
        (∀ i ∈ s.absentSlots s.nTotal.toNat, ∀ j ∈ s.allSlots, j ≠ i → s.overlap i j len = false) ∧
        ∃ inv, s.decodeMatrix.invert = .matrix inv ∧ t = s.reconstructShards inv len)) := by
  simp only [reconstructRule, bind_ok] at h
  obtain ⟨len, h1, h⟩ := h
  refine ⟨len, h1, ?_⟩
  split_ifs at h with hp
  · simp only [Except.ok.injEq] at h
    exact .inl ⟨hp, h.symm⟩
  · simp only [bind_ok, exists_unit, checkBounds_ok, checkOverlap_ok] at h
    obtain ⟨h2, h3, h⟩ := h
    split at h
    · simp [raise] at h
    · rename_i inv hinv
      simp only [Except.ok.injEq] at h
      exact .inr ⟨hp, h2, h3, inv, hinv, h.symm⟩

/-- BYTECOUNT at its end (44 R450). -/
theorem byteCountRule_ok {f0 : Bool} {s t : State} (h : byteCountRule f0 s = .ok t) : ∃ v, t = s.setByteCount v := by
  unfold byteCountRule at h
  split_ifs at h <;> first | (simp [raise] at h; done) | exact ⟨_, (Except.ok.inj h).symm⟩

/-- BYTECOUNT_OPT at its end (44 R451). -/
theorem byteCountOptRule_ok {f0 : Bool} {s t : State} (h : byteCountOptRule f0 s = .ok t) :
    ∃ v, t = s.setByteCount v := by
  simp only [byteCountOptRule, bind_ok, exists_unit] at h
  obtain ⟨-, h⟩ := h
  split at h
  · simp [raise] at h
  · split at h
    · simp [raise] at h
    · exact ⟨_, (Except.ok.inj h).symm⟩

/-- MARK_ALL_PRESENT at its end (44 R452). -/
theorem markAllPresentRule_ok {s t : State} (h : markAllPresentRule s = .ok t) :
    s.shardCount.toNat ≤ 256 ∧ t = { s with present := setPresent s.present (List.range s.shardCount.toNat) } := by
  simp only [markAllPresentRule, bind_ok, exists_unit, checkTableSize_ok, Except.ok.injEq] at h
  obtain ⟨h1, h2⟩ := h
  exact ⟨h1, h2.symm⟩

/-- CHECK_ALL_PRESENT at its end (44 R453). -/
theorem checkAllPresentRule_ok {s t : State} (h : checkAllPresentRule s = .ok t) : t = s := by
  simp only [checkAllPresentRule, bind_ok, exists_unit, Except.ok.injEq] at h
  obtain ⟨-, -, h2⟩ := h
  exact h2.symm

/-- CHECK_WINDOW at its end (44 R454). -/
theorem checkWindowRule_ok {f0 f1 : Bool} {s t : State} (h : checkWindowRule f0 f1 s = .ok t) : t = s := by
  simp only [checkWindowRule, bind_ok, exists_unit] at h
  obtain ⟨-, h⟩ := h
  by_cases h1 : (if f0 = true then s.winStart.toNat else 0) > s.shardCount.toNat
  · rw [if_pos h1] at h; simp [raise] at h
  · rw [if_neg h1] at h
    by_cases h2 : (if f0 = true then s.winStart.toNat else 0) +
        (if f1 = true then s.winCount.toNat else s.shardCount.toNat - if f0 = true then s.winStart.toNat else 0) >
        s.shardCount.toNat
    · rw [if_pos h2] at h; simp [raise] at h
    · rw [if_neg h2] at h
      simp only [bind_ok, exists_unit, Except.ok.injEq] at h
      exact h.2.symm

/-- COUNT_PRESENT at its end (44 R455). -/
theorem countPresentRule_ok {s t : State} (h : countPresentRule s = .ok t) :
    s.shardCount.toNat ≤ 256 ∧
      t = { s with presentCount := BitVec.ofNat 9 (s.presentSlots s.shardCount.toNat).length } := by
  simp only [countPresentRule, bind_ok, exists_unit, checkTableSize_ok, Except.ok.injEq] at h
  obtain ⟨h1, h2⟩ := h
  exact ⟨h1, h2.symm⟩

/-- GF_DIV at its end (41 R273). -/
theorem gfDivRule_ok {s t : State} (h : gfDivRule s = .ok t) :
    ∃ c, gfDiv s.aluA s.aluB = some c ∧ t = s.setAluR c := by
  unfold gfDivRule at h
  split at h
  · simp [raise] at h
  · rename_i c hc
    exact ⟨c, hc, (Except.ok.inj h).symm⟩

/-- MAT_NEW at its end (42 R320). -/
theorem matNewRule_ok {md : MatReg} {s t : State} (h : matNewRule md s = .ok t) :
    (1 ≤ s.matArgRows.toNat ∧ s.matArgRows.toNat ≤ 256 ∧ 1 ≤ s.matArgCols.toNat ∧ s.matArgCols.toNat ≤ 512) ∧
      t = s.setMat md (Mat.zero s.matArgRows.toNat s.matArgCols.toNat) := by
  simp only [matNewRule, bind_ok, exists_unit, checkDims_ok, Except.ok.injEq] at h
  obtain ⟨h1, h2⟩ := h
  exact ⟨h1, h2.symm⟩

/-- MAT_IDENTITY at its end (42 R321). -/
theorem matIdentityRule_ok {md : MatReg} {s t : State} (h : matIdentityRule md s = .ok t) :
    (1 ≤ s.matArgRows.toNat ∧ s.matArgRows.toNat ≤ 256) ∧ t = s.setMat md (Mat.identity s.matArgRows.toNat) := by
  unfold matIdentityRule matMaxRows at h
  split_ifs at h with hc
  · simp [raise] at h
  · exact ⟨by omega, (Except.ok.inj h).symm⟩

/-- MAT_VANDERMONDE at its end (42 R322). -/
theorem matVandermondeRule_ok {md : MatReg} {s t : State} (h : matVandermondeRule md s = .ok t) :
    (1 ≤ s.matArgRows.toNat ∧ s.matArgRows.toNat ≤ 256 ∧ 1 ≤ s.matArgCols.toNat ∧ s.matArgCols.toNat ≤ 512) ∧
      t = s.setMat md (Mat.vandermonde s.matArgRows.toNat s.matArgCols.toNat) := by
  simp only [matVandermondeRule, bind_ok, exists_unit, checkDims_ok, Except.ok.injEq] at h
  obtain ⟨h1, h2⟩ := h
  exact ⟨h1, h2.symm⟩

/-- MAT_MUL at its end (42 R323). -/
theorem matMulRule_ok {md ma mb : MatReg} {s t : State} (h : matMulRule md ma mb s = .ok t) :
    (s.mat ma).rows ≠ 0 ∧ (s.mat mb).rows ≠ 0 ∧ (s.mat ma).cols = (s.mat mb).rows ∧
      t = s.setMat md ((s.mat ma).product (s.mat mb)) := by
  simp only [matMulRule, bind_ok, definedMat_ok] at h
  obtain ⟨a, ⟨ha, rfl⟩, b, ⟨hb, rfl⟩, h⟩ := h
  split_ifs at h with hc
  · simp [raise] at h
  · exact ⟨ha, hb, by simpa using hc, (Except.ok.inj h).symm⟩

/-- MAT_AUGMENT at its end (42 R324). -/
theorem matAugmentRule_ok {md ma mb : MatReg} {s t : State} (h : matAugmentRule md ma mb s = .ok t) :
    (s.mat ma).rows ≠ 0 ∧ (s.mat mb).rows ≠ 0 ∧ (s.mat ma).rows = (s.mat mb).rows ∧
      (s.mat ma).cols + (s.mat mb).cols ≤ 512 ∧ t = s.setMat md ((s.mat ma).augment (s.mat mb)) := by
  simp only [matAugmentRule, bind_ok, definedMat_ok] at h
  obtain ⟨a, ⟨ha, rfl⟩, b, ⟨hb, rfl⟩, h⟩ := h
  split_ifs at h with hc hd
  · simp [raise] at h
  · simp [raise] at h
  · refine ⟨ha, hb, by simpa using hc, ?_, (Except.ok.inj h).symm⟩
    simp only [matMaxCols] at hd
    omega

/-- MAT_SUBMATRIX at its end (42 R325). -/
theorem matSubmatrixRule_ok {md ma : MatReg} {s t : State} (h : matSubmatrixRule md ma s = .ok t) :
    (s.mat ma).rows ≠ 0 ∧
      (1 ≤ s.matArgRows.toNat ∧ s.matArgRows.toNat ≤ 256 ∧ 1 ≤ s.matArgCols.toNat ∧ s.matArgCols.toNat ≤ 512) ∧
      (∀ i, i < s.matArgRows.toNat → s.rowIndex i < (s.mat ma).rows) ∧
      (∀ j, j < s.matArgCols.toNat → s.colIndex j < (s.mat ma).cols) ∧
      t = s.setMat md ((s.mat ma).submatrix ((List.range s.matArgRows.toNat).map s.rowIndex)
        ((List.range s.matArgCols.toNat).map s.colIndex)) := by
  simp only [matSubmatrixRule, bind_ok, exists_unit, definedMat_ok, checkDims_ok, checkIndices_ok, Except.ok.injEq] at h
  obtain ⟨a, ⟨ha, rfl⟩, h1, ⟨h2, h3⟩, h4⟩ := h
  exact ⟨ha, h1, h2, h3, h4.symm⟩

/-- MAT_INVERT at its end (42 R326). -/
theorem matInvertRule_ok {md ma : MatReg} {s t : State} (h : matInvertRule md ma s = .ok t) :
    (s.mat ma).rows ≠ 0 ∧ (s.mat ma).rows = (s.mat ma).cols ∧
      ∃ b, (s.mat ma).invert = .matrix b ∧ t = s.setMat md b := by
  simp only [matInvertRule, bind_ok, definedMat_ok] at h
  obtain ⟨a, ⟨ha, rfl⟩, h⟩ := h
  split_ifs at h with hc
  · simp [raise] at h
  · split at h
    · simp [raise] at h
    · rename_i b hb
      exact ⟨ha, by simpa using hc, b, hb, (Except.ok.inj h).symm⟩

/-- MAT_LOAD_CM at its end (42 R327). -/
theorem matLoadCmRule_ok {md : MatReg} {s t : State} (h : matLoadCmRule md s = .ok t) :
    s.configured = true ∧ t = s.setMat md s.cm := by
  simp only [matLoadCmRule, bind_ok, exists_unit, checkConfigured_ok, Except.ok.injEq] at h
  obtain ⟨h1, h2⟩ := h
  exact ⟨h1, h2.symm⟩

end Sys2Proof.Machine
end

