-- ==== Sys2Proof/Laws/Exec.lean ====
section
/-! SUPPORT. What a completion can be, every command as its rule completed, and the loops over slots. -/

namespace Sys2Proof.Machine

/-! ### Completion -/

/-- A completion is a success or an error report (40 R204, R205). -/
theorem complete_cases {s t : State} {r : Except CmdError State} (h : complete s r = .next t) :
    (∃ u, r = .ok u ∧ t = u.completeOk) ∨ ∃ e, r = .error e ∧ t = s.completeErr e := by
  cases r with
  | ok u => exact .inl ⟨u, rfl, by simpa [complete, eq_comm] using h⟩
  | error e => exact .inr ⟨e, rfl, by simpa [complete, eq_comm] using h⟩

/-- The rule of each command (40 R202). -/
def ruleOf : Instr → State → Except CmdError State
  | .configure, s => configureRule s
  | .encode, s => encodeRule s
  | .verify, s => verifyRule s
  | .reconstruct, s => reconstructRule s
  | .byteCount f0, s => byteCountRule f0 s
  | .byteCountOpt f0, s => byteCountOptRule f0 s
  | .markAllPresent, s => markAllPresentRule s
  | .checkAllPresent, s => checkAllPresentRule s
  | .checkWindow f0 f1, s => checkWindowRule f0 f1 s
  | .countPresent, s => countPresentRule s
  | .gfAdd, s => .ok (s.setAluR (s.aluA ^^^ s.aluB))
  | .gfSub, s => .ok (s.setAluR (s.aluA ^^^ s.aluB))
  | .gfMul, s => .ok (s.setAluR (gfMul s.aluA s.aluB))
  | .gfDiv, s => gfDivRule s
  | .gfExp, s => .ok (s.setAluR (gfExp s.aluA s.aluN.toNat))
  | .matNew md, s => matNewRule md s
  | .matIdentity md, s => matIdentityRule md s
  | .matVandermonde md, s => matVandermondeRule md s
  | .matMul md ma mb, s => matMulRule md ma mb s
  | .matAugment md ma mb, s => matAugmentRule md ma mb s
  | .matSubmatrix md ma, s => matSubmatrixRule md ma s
  | .matInvert md ma, s => matInvertRule md ma s
  | .matLoadCm md, s => matLoadCmRule md s

/-- Every command is its rule, completed (40 R201-R205). -/
theorem exec_eq_complete (i : Instr) (s : State) : exec i s = complete s (ruleOf i s) := by cases i <;> rfl

/-! ### Loops over slots -/

/-- Presence bits after setting a list of slots (10 R53). -/
theorem getLsbD_setPresent (p : BitVec 256) (is : List Nat) (k : Nat) (hk : k < 256) :
    (setPresent p is).getLsbD k = (p.getLsbD k || decide (k ∈ is)) := by
  induction is generalizing p with
  | nil => simp [setPresent]
  | cons i is ih =>
    rw [setPresent, ih]
    simp only [BitVec.getLsbD_or, BitVec.getLsbD_shiftLeft, BitVec.getLsbD_one, hk, decide_true, Bool.true_and,
      List.mem_cons]
    by_cases h : k = i
    · subst h; simp
    · have : ¬(i ≤ k ∧ k - i = 0) := by omega
      by_cases h2 : k < i
      · simp [h, h2]
      · have h3 : ¬ k - i = 0 := by omega
        simp [h, h3]

/-- SHARD_LEN after setting a list of slots (43 R395). -/
theorem getElem?_setLens (v : Vector Word 256) (is : List Nat) (l : Word) (k : Nat) (hk : k < 256) :
    (setLens v is l)[k]? = if k ∈ is then some l else v[k]? := by
  induction is generalizing v with
  | nil => simp [setLens]
  | cons i is ih =>
    rw [setLens, ih]
    by_cases h : k ∈ is
    · simp [h]
    · by_cases h2 : k = i
      · subst h2; simp [hk]
      · have : ¬ i = k := fun e => h2 e.symm
        simp [h, h2, this]

/-- A write of slot buffers leaves every byte outside them (20 R113). -/
theorem lookup_writeSlots_outside (s : State) (content : Nat → List Byte) (is : List Nat) (m : Memory) (x : Nat)
    (h : ∀ i ∈ is, ¬(s.addrOf i ≤ x ∧ x < s.addrOf i + (content i).length)) :
    (s.writeSlots content m is).lookup x = m.lookup x := by
  induction is generalizing m with
  | nil => rfl
  | cons i is ih =>
    rw [State.writeSlots, ih _ fun j hj => h j (List.mem_cons_of_mem _ hj), lookup_storeBytes,
      if_neg (h i List.mem_cons_self)]

/-- A write of slot buffers that do not overlap puts each slot's content into its buffer (43 R390, R395). -/
theorem lookup_writeSlots_inside (s : State) (content : Nat → List Byte) (is : List Nat) (m : Memory) {i x : Nat}
    (hi : i ∈ is) (hx : s.addrOf i ≤ x ∧ x < s.addrOf i + (content i).length)
    (hd : ∀ j ∈ is, j ≠ i → ¬(s.addrOf j ≤ x ∧ x < s.addrOf j + (content j).length)) :
    (s.writeSlots content m is).lookup x = some ((content i).getD (x - s.addrOf i) 0#8) := by
  induction is generalizing m with
  | nil => simp at hi
  | cons j is ih =>
    rw [State.writeSlots]
    by_cases hmem : i ∈ is
    · exact ih _ hmem fun k hk => hd k (List.mem_cons_of_mem _ hk)
    · obtain rfl : i = j := by
        rcases List.mem_cons.1 hi with h | h
        · exact h
        · exact absurd h hmem
      rw [lookup_writeSlots_outside, lookup_storeBytes, if_pos hx]
      exact fun k hk => hd k (List.mem_cons_of_mem _ hk) (fun e => hmem (e ▸ hk))

/-- A write of slot buffers keeps the canonical form. -/
theorem wf_writeSlots (s : State) (content : Nat → List Byte) (is : List Nat) (m : Memory) (h : m.wf = true) :
    (s.writeSlots content m is).wf = true := by
  induction is generalizing m with
  | nil => exact h
  | cons i is ih => exact ih _ (wf_storeBytes _ _ _ h)

/-- A write of slot buffers that end inside SHMEM keeps every listed address inside SHMEM (20 R113). -/
theorem inside_writeSlots (s : State) (content : Nat → List Byte) (is : List Nat) (m : Memory) (n : Nat)
    (hm : ∀ c ∈ m, c.1 < n) (h : ∀ i ∈ is, s.addrOf i + (content i).length ≤ n) :
    ∀ c ∈ s.writeSlots content m is, c.1 < n := by
  induction is generalizing m with
  | nil => exact hm
  | cons i is ih =>
    exact ih _ (inside_storeBytes _ _ _ _ hm (h i List.mem_cons_self)) fun j hj => h j (List.mem_cons_of_mem _ hj)

/-- The combined bytes of a slot number L (43 R391). -/
@[simp] theorem length_combine (d len : Nat) (coef : Nat → Byte) (data : Nat → List Byte) :
    (combine d len coef data).length = len := by simp [combine]

/-- Byte k of the combined bytes (43 R391). -/
theorem getD_combine {d len k : Nat} (coef : Nat → Byte) (data : Nat → List Byte) (h : k < len) :
    (combine d len coef data).getD k 0#8 =
      gfSum ((List.range d).map fun j => gfMul (coef j) ((data j).getD k 0#8)) := by
  simp [combine, List.getD_eq_getElem?_getD, h]

/-- A parity sequence has L bytes (43 R391). -/
@[simp] theorem length_parity (s : State) (r len : Nat) : (s.parity r len).length = len := length_combine ..

/-- A buffer of L bytes (43, Notation). -/
@[simp] theorem length_buf (s : State) (i len : Nat) : (s.buf i len).length = len := length_readBytes ..

/-- What RECONSTRUCT writes into a slot has L bytes (43 R395). -/
@[simp] theorem length_restored (s : State) (inv : Mat) (len i : Nat) : (s.restored inv len i).length = len := by
  unfold State.restored State.dataOf State.recover
  split_ifs <;> simp

/-- The slots RECONSTRUCT fills are slots of the collection (43 R395). -/
theorem mem_absentSlots {s : State} {n i : Nat} : i ∈ s.absentSlots n ↔ i < n ∧ s.isPresent i = false := by
  simp [State.absentSlots]

/-- The present slots (43 R395). -/
theorem mem_presentSlots {s : State} {n i : Nat} : i ∈ s.presentSlots n ↔ i < n ∧ s.isPresent i = true := by
  simp [State.presentSlots]

/-- The parity slots (43 R390). -/
theorem mem_paritySlots {s : State} {i : Nat} (h : s.nData.toNat ≤ s.nTotal.toNat) :
    i ∈ s.paritySlots ↔ s.nData.toNat ≤ i ∧ i < s.nTotal.toNat := by
  simp only [State.paritySlots, List.mem_range'_1]; omega

/-- All slots (43 R390). -/
@[simp] theorem mem_allSlots {s : State} {i : Nat} : i ∈ s.allSlots ↔ i < s.nTotal.toNat := by
  simp [State.allSlots]

end Sys2Proof.Machine
end

