-- ==== Sys2Proof/Laws/Field.lean ====
section
/-! SUPPORT. The field functions: `xtime` is linear, the shift-and-add loop as a sum, and where division has a value. -/

namespace Sys2Proof.Machine

/-- `xtime` in eight bits: the shifted value, reduced by the low byte of 0x11D (41 R252). -/
theorem xtime_eq (v : Byte) : xtime v = v <<< 1 ^^^ (if v.getLsbD 7 then 0x1D#8 else 0#8) := by
  revert v; decide +kernel

/-- `xtime` of a sum (41 R252). -/
theorem xtime_xor (a b : Byte) : xtime (a ^^^ b) = xtime a ^^^ xtime b := by
  rw [xtime_eq, xtime_eq, xtime_eq, BitVec.getLsbD_xor, BitVec.shiftLeft_xor_distrib]
  generalize a <<< 1 = x
  generalize b <<< 1 = y
  have h (p q r t : Byte) : p ^^^ q ^^^ (r ^^^ t) = p ^^^ r ^^^ (q ^^^ t) := by ac_rfl
  rw [h]
  congr 1
  cases a.getLsbD 7 <;> cases b.getLsbD 7 <;> rfl

/-- The running sum of the shift-and-add loop can be taken out (41 R254). -/
theorem gfMulLoop_acc (b : Byte) (ks : List Nat) (x r : Byte) :
    gfMulLoop b ks x r = r ^^^ gfMulLoop b ks x 0#8 := by
  induction ks generalizing x r with
  | nil => simp [gfMulLoop]
  | cons k ks ih =>
    rw [gfMulLoop, ih, gfMulLoop, ih (r := if b.getLsbD k then 0#8 ^^^ x else 0#8)]
    split_ifs <;> simp [BitVec.xor_assoc]

/-- The table form needs no zero test where one operand is 0 (41 R254). -/
theorem gfMulTable_zero_left (b : Byte) : gfMulTable 0#8 b = 0#8 := by simp [gfMulTable]

/-- `gf_div` has no value exactly where the divisor is 0 (41 R255). -/
@[simp] theorem gfDiv_none (a b : Byte) : gfDiv a b = none ↔ b = 0#8 := by
  unfold gfDiv; split_ifs <;> simp_all

/-- The field sum of a joined list (00 R17). -/
theorem gfSum_append (l m : List Byte) : gfSum (l ++ m) = gfSum l ^^^ gfSum m := by
  induction l with
  | nil => simp [gfSum]
  | cons b l ih => simp [gfSum, ih, BitVec.xor_assoc]

/-- `0^0 = 1` and `0^n = 0` otherwise (41 R256). -/
theorem gfExp_zero (n : Nat) : gfExp 0#8 n = if n = 0 then 1#8 else 0#8 := by
  by_cases h : n = 0 <;> simp [gfExp, h]

end Sys2Proof.Machine
end

