-- ==== Sys2Proof/Laws/PerInstr.lean ====
section
/-! SUPPORT. Facts of every instruction as syntax, one lemma per constructor. -/

namespace Sys2Proof.Laws.FieldsFit

/-- The fields of the instruction's word are well formed for the format of the opcode map's row with its opcode
(30 R151, R152, R154). -/
def Statement (i : Instr) : Prop := ∃ r ∈ opcodeMap, r.op = i.fields.op ∧ i.fields.wellFormed r.format = true

/-- A row of the opcode map by its position. -/
theorem of_row (i : Instr) (k : Nat) (h : k < opcodeMap.length) (ho : opcodeMap[k].op = i.fields.op)
    (hw : i.fields.wellFormed opcodeMap[k].format = true) : Statement i :=
  ⟨opcodeMap[k], List.getElem_mem h, ho, hw⟩

theorem configure : Statement .configure := of_row _ 0 (by decide) (by decide) (by decide)
theorem encode : Statement .encode := of_row _ 1 (by decide) (by decide) (by decide)
theorem verify : Statement .verify := of_row _ 2 (by decide) (by decide) (by decide)
theorem reconstruct : Statement .reconstruct := of_row _ 3 (by decide) (by decide) (by decide)
theorem byteCount (f0 : Bool) : Statement (.byteCount f0) := of_row _ 4 (by decide) rfl (by decide +revert)
theorem byteCountOpt (f0 : Bool) : Statement (.byteCountOpt f0) := of_row _ 5 (by decide) rfl (by decide +revert)
theorem markAllPresent : Statement .markAllPresent := of_row _ 6 (by decide) (by decide) (by decide)
theorem checkAllPresent : Statement .checkAllPresent := of_row _ 7 (by decide) (by decide) (by decide)
theorem checkWindow (f0 f1 : Bool) : Statement (.checkWindow f0 f1) :=
  of_row _ 8 (by decide) rfl (by decide +revert)
theorem countPresent : Statement .countPresent := of_row _ 9 (by decide) (by decide) (by decide)
theorem gfAdd : Statement .gfAdd := of_row _ 10 (by decide) (by decide) (by decide)
theorem gfSub : Statement .gfSub := of_row _ 11 (by decide) (by decide) (by decide)
theorem gfMul : Statement .gfMul := of_row _ 12 (by decide) (by decide) (by decide)
theorem gfDiv : Statement .gfDiv := of_row _ 13 (by decide) (by decide) (by decide)
theorem gfExp : Statement .gfExp := of_row _ 14 (by decide) (by decide) (by decide)
theorem matNew (md : MatReg) : Statement (.matNew md) := of_row _ 15 (by decide) rfl (by decide +revert)
theorem matIdentity (md : MatReg) : Statement (.matIdentity md) := of_row _ 16 (by decide) rfl (by decide +revert)
theorem matVandermonde (md : MatReg) : Statement (.matVandermonde md) :=
  of_row _ 17 (by decide) rfl (by decide +revert)
theorem matMul (md ma mb : MatReg) : Statement (.matMul md ma mb) := of_row _ 18 (by decide) rfl (by decide +revert)
theorem matAugment (md ma mb : MatReg) : Statement (.matAugment md ma mb) :=
  of_row _ 19 (by decide) rfl (by decide +revert)
theorem matSubmatrix (md ma : MatReg) : Statement (.matSubmatrix md ma) :=
  of_row _ 20 (by decide) rfl (by decide +revert)
theorem matInvert (md ma : MatReg) : Statement (.matInvert md ma) := of_row _ 21 (by decide) rfl (by decide +revert)
theorem matLoadCm (md : MatReg) : Statement (.matLoadCm md) := of_row _ 22 (by decide) rfl (by decide +revert)

end Sys2Proof.Laws.FieldsFit
end

