-- ==== Sys2Proof/Machine/Script.lean ====
section
/-! DEFINITION. The host-script notation and its expansion into moves (30_encoding.md R170-R174). -/

namespace Sys2Proof.Machine

/-- A statement of the host-script notation (30 R170-R174). -/
inductive Stmt where
  /-- `wr OFFSET, VALUE` -/
  | wr (offset : Nat) (value : Word)
  /-- `rd OFFSET` -/
  | rd (offset : Nat)
  /-- `rd OFFSET == VALUE` -/
  | rdEq (offset : Nat) (value : Word)
  /-- `cmd MNEMONIC operands` -/
  | cmd (i : Instr)
  /-- `wait` -/
  | wait
  /-- `wait ok` -/
  | waitOk
  /-- `wait err CODE` -/
  | waitErr (code : Byte)
  /-- `wrbytes ADDR, b0 b1 ...` -/
  | wrbytes (addr : Nat) (bytes : List Byte)
  /-- `rdbytes ADDR, n == b0 ...` -/
  | rdbytes (addr : Nat) (bytes : List Byte)
  deriving DecidableEq, Repr

/-- The words of a byte sequence, little-endian, the last padded with 0 (30 R174): per word its byte distance from the
start, its value and the mask of the bits that are bytes of the sequence. -/
def wordsOfBytes : Nat → List Byte → List (Nat × Word × Word)
  | _, [] => []
  | k, [a] => [(k, (0#8 ++ 0#8 ++ 0#8 ++ a : BitVec 32), 0x000000FF#32)]
  | k, [a, b] => [(k, (0#8 ++ 0#8 ++ b ++ a : BitVec 32), 0x0000FFFF#32)]
  | k, [a, b, c] => [(k, (0#8 ++ c ++ b ++ a : BitVec 32), 0x00FFFFFF#32)]
  | k, a :: b :: c :: d :: bs => (k, (d ++ c ++ b ++ a : BitVec 32), 0xFFFFFFFF#32) :: wordsOfBytes (k + 4) bs

/-- The moves a statement expands to (30 R170-R174). -/
def Stmt.moves : Stmt → List Move
  | .wr offset value => [.access (.write 32 offset value)]
  | .rd offset => [.access (.read 32 offset)]
  | .rdEq offset value => [.check offset 0xFFFFFFFF#32 value]
  | .cmd i => [.access (.write 32 Loc.cmd.offset (encode i))]
  | .wait => [.wait]
  | .waitOk => [.wait, .check Loc.errCode.offset 0xFFFFFFFF#32 0#32]
  | .waitErr code => [.wait, .check Loc.errCode.offset 0xFFFFFFFF#32 (code.setWidth 32)]
  | .wrbytes addr bytes =>
    (wordsOfBytes 0 bytes).map fun x => .access (.write 32 (Loc.shmem (addr + x.1)).offset x.2.1)
  | .rdbytes addr bytes =>
    (wordsOfBytes 0 bytes).map fun x => .check (Loc.shmem (addr + x.1)).offset x.2.2 x.2.1

/-- The moves of a script, in order. -/
def scriptMoves (p : List Stmt) : List Move := p.flatMap Stmt.moves

end Sys2Proof.Machine
end

