-- ==== Sys2Proof/Laws/Script.lean ====
section
/-! SUPPORT. The end of a script: what a script's moves are, and what leaves its end alone (40_command_cycle.md R216). -/

namespace Sys2Proof.Machine

/-- A script has ended iff no move left is the host's (40 R216). -/
theorem scriptEnded_iff {s : State} : s.scriptEnded = true ↔ ∀ m ∈ s.host.moves, m.isHost = false := by
  simp [State.scriptEnded]

/-- Every move a statement expands to is the host's (30 R170-R174). -/
theorem isHost_of_mem_moves {p : Stmt} {m : Move} (h : m ∈ p.moves) : m.isHost = true := by
  cases p <;> simp only [Stmt.moves, List.mem_cons, List.mem_map, List.not_mem_nil, or_false] at h
  case waitOk | waitErr => rcases h with rfl | rfl <;> rfl
  case wrbytes | rdbytes => obtain ⟨x, -, rfl⟩ := h; rfl
  all_goals subst h; rfl

/-- Every move of a script is the host's. -/
theorem isHost_of_mem_scriptMoves {p : List Stmt} {m : Move} (h : m ∈ scriptMoves p) : m.isHost = true := by
  obtain ⟨x, -, hx⟩ := List.mem_flatMap.1 h
  exact isHost_of_mem_moves hx

/-- The issue of a command ends no script and starts none. -/
@[simp] theorem scriptEnded_issue (s : State) (w : Word) : (s.issue w).scriptEnded = s.scriptEnded := rfl

/-- Nor does the engine's step put next after it (log 4). -/
@[simp] theorem scriptEnded_issueNext (s : State) (w : Word) : (s.issueNext w).scriptEnded = s.scriptEnded := rfl

/-- Nor does a completion. -/
@[simp] theorem scriptEnded_completeOk (s : State) : s.completeOk.scriptEnded = s.scriptEnded := rfl

@[simp] theorem scriptEnded_completeErr (s : State) (e : CmdError) : (s.completeErr e).scriptEnded = s.scriptEnded := rfl

/-- A completion ends the command (40 R216). -/
@[simp] theorem commandEnded_completeOk (s : State) : s.completeOk.commandEnded = true := rfl

@[simp] theorem commandEnded_completeErr (s : State) (e : CmdError) : (s.completeErr e).commandEnded = true := rfl

end Sys2Proof.Machine
end

