-- ==== Sys2Proof/Tests/Slice0.lean ====
section
/-! SUPPORT. The model's own tests: words and values written out from the spec, one step each, and for every statement with
hypotheses a concrete state and operands that meet them. -/

namespace Sys2Proof.Tests

set_option Elab.async false

open Sys2Proof.Machine Sys2Proof.Claims

/-! ### Well-formedness: an ill-formed word for each check (30 R151, R152; 95 T6) -/

theorem test_wellFormed_accepts : (fieldsOf 0x00003F33#32).wellFormed .mdab = true := by decide
theorem test_wellFormed_rejects_bit14 : (fieldsOf 0x00007F33#32).wellFormed .mdab = false := by decide
theorem test_wellFormed_rejects_bit18 : (fieldsOf 0x00040014#32).wellFormed .w = false := by decide
theorem test_wellFormed_rejects_md : (fieldsOf 0x00000102#32).wellFormed .n = false := by decide
theorem test_wellFormed_rejects_ma : (fieldsOf 0x00000430#32).wellFormed .md = false := by decide
theorem test_wellFormed_rejects_mb : (fieldsOf 0x00001036#32).wellFormed .mda = false := by decide
theorem test_wellFormed_rejects_f0 : (fieldsOf 0x00010002#32).wellFormed .n = false := by decide
theorem test_wellFormed_rejects_f1 : (fieldsOf 0x00020010#32).wellFormed .h = false := by decide

/-! ### Decoding: every row's word, from 30 R154, R157 and 95 T6 -/

theorem test_decode_coder :
    decodeTableWord 32 0x00000001 = some .configure ∧ decodeTableWord 32 0x00000002 = some .encode ∧
    decodeTableWord 32 0x00000003 = some .verify ∧ decodeTableWord 32 0x00000004 = some .reconstruct := by decide

theorem test_decode_utilities :
    decodeTableWord 32 0x00000010 = some (.byteCount false) ∧ decodeTableWord 32 0x00010010 = some (.byteCount true) ∧
    decodeTableWord 32 0x00010011 = some (.byteCountOpt true) ∧
    decodeTableWord 32 0x00000012 = some .markAllPresent ∧ decodeTableWord 32 0x00000013 = some .checkAllPresent ∧
    decodeTableWord 32 0x00010014 = some (.checkWindow true false) ∧
    decodeTableWord 32 0x00020014 = some (.checkWindow false true) ∧
    decodeTableWord 32 0x00000015 = some .countPresent := by decide

theorem test_decode_field :
    decodeTableWord 32 0x00000020 = some .gfAdd ∧ decodeTableWord 32 0x00000021 = some .gfSub ∧
    decodeTableWord 32 0x00000022 = some .gfMul ∧ decodeTableWord 32 0x00000023 = some .gfDiv ∧
    decodeTableWord 32 0x00000024 = some .gfExp := by decide

theorem test_decode_matrix :
    decodeTableWord 32 0x00000230 = some (.matNew 2) ∧ decodeTableWord 32 0x00000131 = some (.matIdentity 1) ∧
    decodeTableWord 32 0x00000032 = some (.matVandermonde 0) ∧
    decodeTableWord 32 0x00001233 = some (.matMul 2 0 1) ∧ decodeTableWord 32 0x00001833 = some (.matMul 0 2 1) ∧
    decodeTableWord 32 0x00001334 = some (.matAugment 3 0 1) ∧
    decodeTableWord 32 0x00000135 = some (.matSubmatrix 1 0) ∧
    decodeTableWord 32 0x00000D36 = some (.matInvert 1 3) ∧ decodeTableWord 32 0x00000037 = some (.matLoadCm 0) := by
  decide

theorem test_decode_illegal :
    decodeTableWord 32 0x00000000 = none ∧ decodeTableWord 32 0x00000005 = none ∧ decodeTableWord 32 0x000000FF = none ∧
    decodeTableWord 32 0x00000120 = none ∧ decodeTableWord 32 0x00000430 = none ∧
    decodeTableWord 32 0x00001036 = none ∧ decodeTableWord 32 0x00007F33 = none ∧
    decodeTableWord 32 0x80000022 = none := by decide

/-! ### Small states -/

/-- The state a step answers, if it answers one. -/
def after : Result → Option State
  | .next t => some t
  | .fault _ => none
  | .refused _ => none

/-- STATUS, ERR_CODE and ERR_INFO after a step. -/
def report (r : Result) : Option (Word × Byte × Word) := (after r).map fun t => (t.statusWord, t.errCode, t.errInfo)

/-- A step whose state passes a test answers a state. -/
theorem next_of {r : Result} (p : State → Bool) (h : (after r).any p = true) : ∃ t, r = .next t ∧ p t = true := by
  cases r <;> simp_all [after]

/-- ALU_A, ALU_B, ALU_N. -/
def alu (a b : Byte) (n : Word) : State := { State.reset with aluA := a, aluB := b, aluN := n }

/-- M0, M1 and the matrix arguments. -/
def matrices (a b : Mat) (r c : Half) : State :=
  { State.reset with mats := (State.reset.mats.set 0 a).set 1 b, matArgRows := r, matArgCols := c }

/-- SHARD_COUNT, PRESENT[0] and HINT. -/
def shards (n p hint : Word) : State :=
  { State.reset with shardCount := n, present := p.setWidth 256, hint := hint }

/-- [[1,2],[3,4]]. -/
def m1234 : Mat := ⟨2, 2, [[1, 2], [3, 4]]⟩

/-- CM of (2, 2), from 43 R383. -/
def cm22 : Mat := ⟨4, 2, [[1, 0], [0, 1], [3, 2], [2, 3]]⟩

/-- Configured (2, 2), layout A with L = 3, the data of 95 V2 in slots 0 and 1 and `p` and `q` in slots 2 and 3. -/
def coder22 (p q : List Byte) : State :=
  { State.reset with
    configured := true, nData := 2, nParity := 2, nTotal := 4, cm := cm22, shardCount := 4
    shardAddr := ((State.reset.shardAddr.set 1 0x10).set 2 0x20).set 3 0x30
    shardLen := (((State.reset.shardLen.set 0 3).set 1 3).set 2 3).set 3 3
    shmem := (((State.reset.shmem.storeBytes 0 [0x11, 0x22, 0x33]).storeBytes 0x10 [0x44, 0x55, 0x66]).storeBytes
      0x20 p).storeBytes 0x30 q }

/-- The encoded collection of 95 V2. -/
def encoded22 : State := coder22 [187, 204, 153] [238, 187, 204]

/-- Configured (1, 1): slot 0 absent, slot 1 present, one byte 5. -/
def coder11 : State :=
  { State.reset with
    configured := true, nData := 1, nParity := 1, nTotal := 2, cm := ⟨2, 1, [[1], [1]]⟩, shardCount := 2
    shardAddr := State.reset.shardAddr.set 1 0x10, shardLen := State.reset.shardLen.set 1 1, present := 2
    shmem := [(0x10, 5)] }

/-! ### Field unit (95 T1) -/

theorem test_gfAdd : (after (exec .gfAdd (alu 0x53 0xCA 0))).map (·.aluR) = some 0x99 := by decide +kernel
theorem test_gfSub : (after (exec .gfSub (alu 0x0F 0x01 0))).map (·.aluR) = some 0x0E := by decide +kernel
theorem test_gfMul : (after (exec .gfMul (alu 0x53 0xCA 0))).map (·.aluR) = some 0x8F := by decide +kernel
theorem test_gfMul_reduces : (after (exec .gfMul (alu 0xFF 0xFF 0))).map (·.aluR) = some 0xE2 := by decide +kernel
theorem test_gfDiv : (after (exec .gfDiv (alu 0xCA 0x53 0))).map (·.aluR) = some 0xEC := by decide +kernel
theorem test_gfDiv_zero : report (exec .gfDiv (alu 0x00 0x00 0)) = some (0x06, 0x14, 0) := by decide +kernel
theorem test_gfExp : (after (exec .gfExp (alu 0x02 0 254))).map (·.aluR) = some 0x8E := by decide +kernel
theorem test_gfExp_no_wrap : (after (exec .gfExp (alu 0x1D 0 0xFFFFFFFF))).map (·.aluR) = some 0x01 := by decide +kernel
theorem test_tables : logAt 0x8E = 254 ∧ logAt 0x53 = 206 ∧ logAt 0xCA = 73 ∧ expAt 255 = 0x01 := by decide +kernel

/-! ### Matrix unit (95 T3) -/

theorem test_matNew : report (exec (.matNew 0) (matrices m1234 m1234 257 1)) = some (0x06, 0x15, 0) := by decide +kernel
theorem test_matNew_dims :
    (after (exec (.matNew 0) (matrices m1234 m1234 2 3))).map (·.readLoc (.matDim 0)) = some (some 0x00030002) := by
  decide +kernel
theorem test_matIdentity :
    (after (exec (.matIdentity 1) (matrices m1234 m1234 3 0))).map
      (fun t => (t.readLoc (.matWord 1 1 0), t.readLoc (.matWord 1 2 0))) = some (some 0x00000100, some 0x00010000) := by
  decide +kernel
theorem test_matVandermonde :
    (after (exec (.matVandermonde 0) (matrices m1234 m1234 4 3))).map (·.mat 0) =
      some ⟨4, 3, [[1, 0, 0], [1, 1, 1], [1, 2, 4], [1, 3, 5]]⟩ := by decide +kernel
theorem test_matMul :
    (after (exec (.matMul 2 0 1) (matrices m1234 ⟨2, 2, [[5, 6], [7, 8]]⟩ 0 0))).map (·.mat 2) =
      some ⟨2, 2, [[11, 22], [19, 42]]⟩ := by decide +kernel
theorem test_matMul_in_place :
    (after (exec (.matMul 0 0 0) (matrices m1234 m1234 0 0))).map (·.mat 0) = some ⟨2, 2, [[7, 10], [15, 22]]⟩ := by
  decide +kernel
theorem test_matAugment :
    (after (exec (.matAugment 3 0 1) (matrices m1234 (Mat.identity 2) 0 0))).map (·.mat 3) =
      some ⟨2, 4, [[1, 2, 1, 0], [3, 4, 0, 1]]⟩ := by decide +kernel
theorem test_matAugment_wide :
    report (exec (.matAugment 3 0 1) (matrices (Mat.zero 256 300) (Mat.zero 256 300) 0 0)) = some (0x06, 0x15, 0) := by
  decide +kernel

/-- M0 = vandermonde(4, 3), IDXR = [3, r], IDXC = [2, c]. -/
def lists (r c : Half) : State :=
  { matrices (Mat.vandermonde 4 3) m1234 2 2 with
    idxR := (State.reset.idxR.set 0 3).set 1 r, idxC := (State.reset.idxC.set 0 2).set 1 c }

theorem test_matSubmatrix :
    (after (exec (.matSubmatrix 1 0) (lists 1 0))).map (·.mat 1) = some ⟨2, 2, [[5, 1], [1, 1]]⟩ := by decide +kernel
theorem test_matSubmatrix_bad_column :
    report (exec (.matSubmatrix 1 0) (lists 1 3)) = some (0x06, 0x16, 0x80000001) := by decide +kernel
theorem test_matInvert :
    (after (exec (.matInvert 1 0) (matrices m1234 m1234 0 0))).map (·.mat 1) = some ⟨2, 2, [[2, 1], [143, 142]]⟩ := by
  decide +kernel
theorem test_matInvert_singular :
    report (exec (.matInvert 1 0) (matrices ⟨3, 3, [[0, 2, 0], [3, 0, 0], [0, 0, 0]]⟩ m1234 0 0)) =
      some (0x06, 0x05, 2) := by decide +kernel
theorem test_invert_swaps :
    Mat.invert ⟨3, 3, [[0, 1, 0], [0, 0, 1], [1, 0, 0]]⟩ = .matrix ⟨3, 3, [[0, 0, 1], [1, 0, 0], [0, 1, 0]]⟩ := by
  decide +kernel
theorem test_matLoadCm_unconfigured : report (exec (.matLoadCm 0) .reset) = some (0x06, 0x11, 0) := by decide +kernel
theorem test_matLoadCm : (after (exec (.matLoadCm 0) encoded22)).map (·.mat 0) = some cm22 := by decide +kernel

/-! ### Coder (43 R383; 95 V1-V7, T4) -/

theorem test_codingMatrix_5_5 :
    codingMatrix 5 5 = .matrix ⟨10, 5, [[1, 0, 0, 0, 0], [0, 1, 0, 0, 0], [0, 0, 1, 0, 0], [0, 0, 0, 1, 0], [0, 0, 0, 0, 1],
      [7, 7, 6, 6, 1], [9, 8, 9, 8, 1], [15, 14, 14, 15, 1], [2, 125, 149, 253, 22], [31, 96, 137, 225, 22]]⟩ := by
  decide +kernel
theorem test_configure :
    (after (exec .configure { State.reset with cfgD := 2, cfgP := 2 })).map (fun t => (t.cm, t.statusWord)) =
      some (cm22, 0x0A) := by decide +kernel
theorem test_configure_no_wrap :
    report (exec .configure { State.reset with cfgD := 0xFFFFFFFF, cfgP := 2 }) = some (0x06, 0x04, 0) := by
  decide +kernel
theorem test_encode :
    (after (exec .encode (coder22 [] []))).map (fun t => t.readBytes 0x20 3 ++ t.readBytes 0x30 3) =
      some [187, 204, 153, 238, 187, 204] := by decide +kernel
theorem test_encode_overlap :
    report (exec .encode { coder22 [] [] with shardAddr := (coder22 [] []).shardAddr.set 3 0x22 }) =
      some (0x0E, 0x13, 2) := by decide +kernel
theorem test_verify : report (exec .verify encoded22) = some (0x1A, 0, 0) := by decide +kernel
theorem test_verify_tampered :
    report (exec .verify (coder22 [187, 204, 152] [238, 187, 204])) = some (0x0A, 0, 0) := by decide +kernel
theorem test_reconstruct :
    (after (exec .reconstruct { coder22 [187, 204, 153] [0xAA] with
        present := 0x6, shmem := encoded22.shmem.storeBytes 0 [0xAA, 0xAA, 0xAA], shardLen := encoded22.shardLen.set 0 0 })).map
      (fun t => (t.readBytes 0 3, t.readBytes 0x30 3, t.present, t.shardLen[0])) =
      some ([0x11, 0x22, 0x33], [238, 187, 204], 0xF, 3) := by decide +kernel
theorem test_reconstruct_too_few : report (exec .reconstruct { encoded22 with present := 0x4 }) = some (0x0E, 0x01, 0) := by
  decide +kernel

/-! ### Shard utilities (95 T5) -/

theorem test_byteCount : report (exec (.byteCount true) (shards 3 0 0)) = some (0x06, 0x07, 0) := by decide +kernel
theorem test_byteCountOpt :
    (after (exec (.byteCountOpt false)
      { shards 4 0xC 0 with shardLen := (State.reset.shardLen.set 2 9).set 3 4 })).map (·.byteCount) = some 9 := by
  decide +kernel
theorem test_byteCountOpt_outside :
    report (exec (.byteCountOpt true) (shards 4 0x10 6)) = some (0x06, 0x01, 0) := by decide +kernel
theorem test_markAllPresent :
    (after (exec .markAllPresent (shards 5 0xFFFFFF00 0))).map (·.readLoc (.present 0)) = some (some 0xFFFFFF1F) := by
  decide +kernel
theorem test_checkAllPresent : report (exec .checkAllPresent (shards 3 0x5 0)) = some (0x06, 0x17, 1) := by decide +kernel
theorem test_checkWindow :
    report (exec (.checkWindow true false) { shards 6 0x1E 0 with winStart := 1 }) = some (0x06, 0x17, 5) := by
  decide +kernel
theorem test_checkWindow_no_wrap :
    report (exec (.checkWindow true true) { shards 6 0x1E 0 with winStart := 0xFFFFFFFF, winCount := 4 }) =
      some (0x06, 0x01, 0) := by decide +kernel
theorem test_countPresent :
    (after (exec .countPresent (shards 10 0xFFFFFF76 0))).map (·.presentCount) = some 7 := by decide +kernel

/-! ### Cycle and host accesses (95 T7, T8) -/

theorem test_issue : (State.reset.issue 0x20).statusWord = 0x01 := by decide +kernel
theorem test_illegal_completes : report (step (State.reset.withFetchWord 32 0x05)) = some (0x06, 0x10, 0) := by
  decide +kernel
theorem test_fetchWord_runs : report (step (State.reset.withFetchWord 32 0x20)) = some (0x02, 0x00, 0) := by decide +kernel
theorem test_write_aluA :
    (after (hostAccess (.write 32 0x0050 0x000001FF) .reset)).map (·.readLoc .aluA) = some (some 0x000000FF) := by
  decide +kernel
theorem test_shmem_little_endian :
    (after (hostAccess (.write 32 0x1000000 0x44332211) .reset)).map (·.readBytes 0 4) =
      some [0x11, 0x22, 0x33, 0x44] := by decide +kernel
theorem test_unmapped : after (hostAccess (.read 32 0x0068) .reset) = none := by decide +kernel
theorem test_matrix_word :
    (after (hostAccess (.write 32 0x100000 0x44332211) (matrices (Mat.zero 2 3) m1234 0 0))).map
      (fun t => (t.readLoc (.matWord 0 0 0), t.readLoc (.matWord 0 0 1), t.readLoc (.matWord 0 2 0))) =
      some (some 0x00332211, none, none) := by decide +kernel
theorem test_script_cmd : (Stmt.cmd (.matMul 2 0 1)).moves = [.access (.write 32 0x0010 0x00001233)] := by decide
theorem test_script_wrbytes :
    (Stmt.wrbytes 0x10 [4, 5]).moves = [.access (.write 32 0x1000010 0x00000504)] := by decide

/-! ### States and operands that meet the hypotheses of the statements, each clause on its own -/

/-- Two conditions on one matrix function's failure: [[0]] has no left inverse (42 R316). -/
theorem zero_has_no_inverse :
    ¬ ∃ c : Mat, c.rows = 1 ∧ c.cols = 1 ∧ c.product ⟨1, 1, [[0]]⟩ = Mat.identity 1 := by
  rintro ⟨c, hr, hc, h⟩
  have h := congrArg (fun m => m.at 0 0) h
  have z : ∀ x : Byte, gfMul x 0#8 = 0#8 := by decide +kernel
  simp [Mat.product, Mat.build, Mat.at, Mat.identity, hr, hc, gfSum, z] at h

/-- `coder11` meets the invariant. -/
theorem coder11_inv : coder11.Inv where
  size := ⟨by decide, by decide, by decide⟩
  shmemWf := by decide
  shmemInside := by decide
  total := by decide
  unconfigured := by intro h; cases h
  configuredAs := fun _ => ⟨by decide, by decide, by decide, by decide +kernel⟩
  matsWf := by decide +kernel
  errCodeLegal := .inl rfl
  busyClear := by intro h; cases h
  errReport := ⟨by decide, fun _ => rfl⟩
  errDone := by intro h; cases h
  presentCountRange := by decide

/-- It does with moves of its host to come. -/
theorem coder11_inv_withMoves (ms : List Move) : (coder11.withMoves ms).Inv :=
  ⟨coder11_inv.size, coder11_inv.shmemWf, coder11_inv.shmemInside, coder11_inv.total, coder11_inv.unconfigured,
    coder11_inv.configuredAs, coder11_inv.matsWf, coder11_inv.errCodeLegal, coder11_inv.busyClear, coder11_inv.errReport,
    coder11_inv.errDone, coder11_inv.presentCountRange⟩

theorem witness_LegalWordIsItsCommandsWord : decode 0x00003F33#32 = .ok (.matMul 3 3 3) := rfl

theorem witness_DecodeSelectsTheMatchingRow :
    (∃ r ∈ opcodeMap, 0x00003F33#32 &&& r.format.mask = r.matchWord) ∧
    ∀ r ∈ opcodeMap, 0x00007F33#32 &&& r.format.mask ≠ r.matchWord := by decide

/-- Busy with the word `w`, and the moves `ms` to come. -/
def pending (w : Word) (ms : List Move) : State := (State.reset.issue w).withMoves ms

theorem witness_StepRunsTheDecodedCommand :
    (pending 0x20 [.engine]).busy = true ∧ decode (pending 0x20 [.engine]).cmd = .ok .gfAdd ∧
    (pending 0x20 [.engine]).host.moves = [.engine] ∧ (pending 0x20 [.wait]).host.moves = [.wait] ∧
    (pending 0x20 []).host.moves = [] ∧ State.reset.busy = false ∧ State.reset.host.moves = [] ∧
    (State.reset.withMoves [.engine]).host.moves = [.engine] ∧
    (State.reset.withMoves [.wait]).host.moves = [.wait] := ⟨rfl, rfl, rfl, rfl, rfl, rfl, rfl, rfl, rfl⟩

/-- The host's moves: an access that completes, one that gets a bus error, and a check of either kind. -/
theorem witness_StepRunsTheDecodedCommand_host :
    (State.reset.withMoves [.access (.read 32 0x0068)]).host.moves = [.access (.read 32 0x0068)] ∧
    (State.reset.withMoves [.attempt (.write 32 0x0024 7)]).host.moves = [.attempt (.write 32 0x0024 7)] ∧
    (∃ t, hostAccess (.write 32 0x0024 7) (State.reset.withMoves []) = .next t) ∧
    (State.reset.withMoves [.check 0x0010 1 2]).host.moves = [.check 0x0010 1 2] ∧
    hostRead 32 0x0068 (State.reset.withMoves []) = .fault (.busError .unmapped 0x0068) ∧
    reads (State.reset.withMoves []) 0x0010 0#32 :=
  ⟨rfl, rfl, ⟨_, rfl⟩, rfl, rfl, rfl⟩

/-- The script `cmd GF_ADD` ends with its CMD write, the command still pending (40 R216). -/
theorem test_script_ends_before_its_command :
    (State.reset.withMoves [.access (.write 32 0x0010 0x20), .engine]).scriptEnded = false ∧
    ∃ t, step (State.reset.withMoves [.access (.write 32 0x0010 0x20), .engine]) = .next t ∧
      t.scriptEnded = true ∧ t.busy = true ∧ t.commandEnded = false ∧
      ∃ u, step t = .next u ∧ u.scriptEnded = true ∧ u.commandEnded = true :=
  ⟨rfl, _, rfl, rfl, rfl, rfl, _, rfl, rfl, rfl⟩

theorem witness_IllegalWordReportsIllegalCommand :
    (pending 0x05 []).busy = true ∧ (∀ i, decode (pending 0x05 []).cmd ≠ .ok i) ∧
    (pending 0x05 [.engine]).host.moves = [.engine] ∧ (pending 0x05 [.wait]).host.moves = [.wait] ∧
    (pending 0x05 []).host.moves = [] := by
  refine ⟨rfl, fun i h => ?_, rfl, rfl, rfl⟩
  have e : decode (pending 0x05 []).cmd = .error (.unknownOpcode 0x05#8) := rfl
  rw [e] at h
  cases h

theorem witness_CmdWriteIssues : State.reset.busy = false ∧ (pending 0x05 []).busy = true := ⟨rfl, rfl⟩

theorem witness_EveryCommandCompletes :
    (pending 0x05 [.wait]).busy = true ∧ (pending 0x05 [.wait]).host.moves = [.wait] := ⟨rfl, rfl⟩

theorem witness_FailedCommandWritesOnlyItsReport : ∃ t, exec .gfDiv .reset = .next t ∧ t.err = true :=
  next_of (·.err) (by decide +kernel)

theorem witness_CommandReportsOnlyItsOwnCodes : ∃ t, exec .reconstruct (coder22 [] []) = .next t ∧ t.err = true :=
  next_of (·.err) (by decide +kernel)

theorem witness_FailureRepeats : ∃ t, exec .encode .reset = .next t ∧ t.err = true :=
  next_of (·.err) (by decide +kernel)

theorem witness_CommandsKeepHostWrittenRegisters : ∃ t, exec .reconstruct coder11 = .next t ∧ t.present = 3 :=
  (next_of (fun t => t.present == 3) (by decide +kernel)).imp fun _ h => ⟨h.1, by simpa using h.2⟩

theorem witness_ResultsHaveTheirOwnWriters :
    (∃ t, exec .markAllPresent encoded22 = .next t ∧ t.configured = true) ∧ encoded22.configured = true ∧
    Instr.markAllPresent ≠ .configure ∧ Instr.markAllPresent ≠ .verify ∧
    (∀ f, Instr.markAllPresent ≠ .byteCount f ∧ Instr.markAllPresent ≠ .byteCountOpt f) ∧
    Instr.markAllPresent ≠ .countPresent ∧ Instr.markAllPresent ∉ [Instr.gfAdd, .gfSub, .gfMul, .gfDiv, .gfExp] ∧
    ∃ t, exec .gfDiv .reset = .next t ∧ t.err = true :=
  ⟨next_of (·.configured) (by decide +kernel), rfl, by decide, by decide, by decide, by decide, by decide,
    next_of (·.err) (by decide +kernel)⟩

theorem witness_ShardAndMatrixWriters :
    (∃ t, exec (.matNew 1) (matrices m1234 m1234 1 1) = .next t ∧ t.mat 1 = Mat.zero 1 1) ∧
    Instr.matNew 1 ≠ .encode ∧ Instr.matNew 1 ≠ .reconstruct ∧ Instr.matNew 1 ≠ .markAllPresent ∧
    destination (.matNew 1) ≠ some 0 ∧ here coder11 1 ∧ (∃ t, exec .reconstruct coder11 = .next t ∧ t.present = 3) ∧
    ∃ t, exec (.matNew 1) (matrices m1234 m1234 0 1) = .next t ∧ t.err = true :=
  ⟨(next_of (fun t => t.mat 1 == Mat.zero 1 1) (by decide +kernel)).imp fun _ h => ⟨h.1, by simpa using h.2⟩,
    by decide, by decide, by decide, by decide, by decide,
    (next_of (fun t => t.present == 3) (by decide +kernel)).imp fun _ h => ⟨h.1, by simpa using h.2⟩,
    next_of (·.err) (by decide +kernel)⟩

theorem witness_OtherCommandsIgnoreShardMemory :
    Instr.markAllPresent ≠ .encode ∧ Instr.markAllPresent ≠ .verify ∧ Instr.markAllPresent ≠ .reconstruct ∧
    ∃ t, exec .markAllPresent encoded22 = .next t ∧ t.done = true :=
  ⟨by decide, by decide, by decide, next_of (·.done) (by decide +kernel)⟩

theorem witness_GfDivIsTheUniqueQuotient : (alu 0 0 0).aluB = 0x00#8 ∧ (alu 0 0xFF 0).aluB ≠ 0x00#8 := by decide

theorem witness_FieldLaws : (0x01#8 : Byte) ≠ 0x00#8 := by decide

theorem witness_FieldTables : (253 : Nat) < 254 ∧ (0xFF#8 : Byte) ≠ 0x00#8 ∧ expAt 254 = 0x8E#8 := by decide +kernel

/-- The dimensions MAT_ARG_ROWS and MAT_ARG_COLS ask for. -/
def asks (r c : Half) : State := matrices m1234 m1234 r c

/-- The boundaries of the accepted sizes, for MAT_NEW and MAT_VANDERMONDE. -/
theorem witness_MatNewGivesZeros :
    dimsFit (asks 1 1).matArgRows.toNat (asks 1 1).matArgCols.toNat ∧
    dimsFit (asks 256 512).matArgRows.toNat (asks 256 512).matArgCols.toNat ∧
    ¬ dimsFit (asks 257 512).matArgRows.toNat (asks 257 512).matArgCols.toNat ∧
    ¬ dimsFit (asks 256 513).matArgRows.toNat (asks 256 513).matArgCols.toNat ∧
    ¬ dimsFit (asks 0 1).matArgRows.toNat (asks 0 1).matArgCols.toNat ∧
    ¬ dimsFit (asks 1 0).matArgRows.toNat (asks 1 0).matArgCols.toNat := by decide

theorem witness_MatVandermondeGivesPowers :
    dimsFit (asks 256 512).matArgRows.toNat (asks 256 512).matArgCols.toNat ∧
    ¬ dimsFit (asks 257 1).matArgRows.toNat (asks 257 1).matArgCols.toNat := by decide

theorem witness_MatIdentityGivesIdentity :
    (1 ≤ (asks 1 0).matArgRows.toNat ∧ (asks 1 0).matArgRows.toNat ≤ 256) ∧
    (1 ≤ (asks 256 0).matArgRows.toNat ∧ (asks 256 0).matArgRows.toNat ≤ 256) ∧
    ((asks 0 0).matArgRows.toNat = 0 ∨ 256 < (asks 0 0).matArgRows.toNat) ∧
    ((asks 257 0).matArgRows.toNat = 0 ∨ 256 < (asks 257 0).matArgRows.toNat) := by decide

theorem witness_MatMulGivesProduct :
    ((State.reset.mat 0).rows = 0 ∨ (State.reset.mat 1).rows = 0) ∧
    ((matrices m1234 (Mat.zero 3 1) 0 0).mat 0).rows ≠ 0 ∧ ((matrices m1234 (Mat.zero 3 1) 0 0).mat 1).rows ≠ 0 ∧
    ((matrices m1234 (Mat.zero 3 1) 0 0).mat 0).cols ≠ ((matrices m1234 (Mat.zero 3 1) 0 0).mat 1).rows ∧
    ((matrices m1234 (Mat.zero 2 1) 0 0).mat 0).rows ≠ 0 ∧ ((matrices m1234 (Mat.zero 2 1) 0 0).mat 1).rows ≠ 0 ∧
    ((matrices m1234 (Mat.zero 2 1) 0 0).mat 0).cols = ((matrices m1234 (Mat.zero 2 1) 0 0).mat 1).rows := by
  decide +kernel

/-- M0 is 1 x `c` and M1 is `r` x 256. -/
def joined (r c : Nat) : State := matrices (Mat.zero 1 c) (Mat.zero r 256) 0 0

theorem witness_MatAugmentJoinsColumns :
    ((State.reset.mat 0).rows = 0 ∨ (State.reset.mat 1).rows = 0) ∧
    (((joined 2 1).mat 0).rows ≠ 0 ∧ ((joined 2 1).mat 1).rows ≠ 0 ∧
      ((joined 2 1).mat 0).rows ≠ ((joined 2 1).mat 1).rows) ∧
    (((joined 1 257).mat 0).rows ≠ 0 ∧ ((joined 1 257).mat 1).rows ≠ 0 ∧
      ((joined 1 257).mat 0).rows = ((joined 1 257).mat 1).rows ∧
      512 < ((joined 1 257).mat 0).cols + ((joined 1 257).mat 1).cols) ∧
    (((joined 1 256).mat 0).rows ≠ 0 ∧ ((joined 1 256).mat 1).rows ≠ 0 ∧
      ((joined 1 256).mat 0).rows = ((joined 1 256).mat 1).rows ∧
      ((joined 1 256).mat 0).cols + ((joined 1 256).mat 1).cols ≤ 512) := by decide +kernel

theorem witness_MatSubmatrixPicksRowsAndColumns :
    (State.reset.mat 0).rows = 0 ∧ ((lists 1 0).mat 0).rows ≠ 0 ∧
    ¬ dimsFit (asks 0 1).matArgRows.toNat (asks 0 1).matArgCols.toNat ∧ ((asks 0 1).mat 0).rows ≠ 0 ∧
    dimsFit (lists 1 0).matArgRows.toNat (lists 1 0).matArgCols.toNat ∧
    IsFirst (fun i => ((lists 4 3).mat 0).rows ≤ (lists 4 3).rowIndex i) 0 (lists 4 3).matArgRows.toNat 1 ∧
    (∀ i, i < (lists 1 3).matArgRows.toNat → (lists 1 3).rowIndex i < ((lists 1 3).mat 0).rows) ∧
    IsFirst (fun j => ((lists 1 3).mat 0).cols ≤ (lists 1 3).colIndex j) 0 (lists 1 3).matArgCols.toNat 1 ∧
    (∀ i, i < (lists 1 0).matArgRows.toNat → (lists 1 0).rowIndex i < ((lists 1 0).mat 0).rows) ∧
    ∀ j, j < (lists 1 0).matArgCols.toNat → (lists 1 0).colIndex j < ((lists 1 0).mat 0).cols := by decide +kernel

theorem witness_MatInvertFollowsInvert :
    (State.reset.mat 0).rows = 0 ∧ ((joined 1 2).mat 0).rows ≠ 0 ∧
    ((joined 1 2).mat 0).rows ≠ ((joined 1 2).mat 0).cols ∧
    ((asks 0 0).mat 0).rows ≠ 0 ∧ ((asks 0 0).mat 0).rows = ((asks 0 0).mat 0).cols ∧
    ((asks 0 0).mat 0).invert = .matrix ⟨2, 2, [[2, 1], [143, 142]]⟩ ∧
    ((matrices ⟨2, 2, [[1, 1], [1, 1]]⟩ m1234 0 0).mat 0).invert = .singular 1 := by decide +kernel

theorem witness_MatInvertInvertsTheInvertible :
    (((asks 0 0).mat 0).rows ≠ 0 ∧ ((asks 0 0).mat 0).rows = ((asks 0 0).mat 0).cols ∧
      ∃ c : Mat, c.rows = ((asks 0 0).mat 0).rows ∧ c.cols = ((asks 0 0).mat 0).rows ∧
        c.product ((asks 0 0).mat 0) = Mat.identity ((asks 0 0).mat 0).rows) ∧
    (((matrices ⟨1, 1, [[0]]⟩ m1234 0 0).mat 0).rows ≠ 0 ∧
      ((matrices ⟨1, 1, [[0]]⟩ m1234 0 0).mat 0).rows = ((matrices ⟨1, 1, [[0]]⟩ m1234 0 0).mat 0).cols ∧
      ¬ ∃ c : Mat, c.rows = ((matrices ⟨1, 1, [[0]]⟩ m1234 0 0).mat 0).rows ∧
        c.cols = ((matrices ⟨1, 1, [[0]]⟩ m1234 0 0).mat 0).rows ∧
        c.product ((matrices ⟨1, 1, [[0]]⟩ m1234 0 0).mat 0) =
          Mat.identity ((matrices ⟨1, 1, [[0]]⟩ m1234 0 0).mat 0).rows) :=
  ⟨⟨by decide, by decide, ⟨2, 2, [[2, 1], [143, 142]]⟩, by decide, by decide, by decide +kernel⟩,
    by decide, by decide, zero_has_no_inverse⟩

/-- Column 1 of [[1,1],[1,1]] is column 0, which is not zero: Singular(1) (42 R316). -/
theorem witness_MatInvertReportsTheFirstDependentColumn :
    ((matrices ⟨2, 2, [[1, 1], [1, 1]]⟩ m1234 0 0).mat 0).rows ≠ 0 ∧
    ((matrices ⟨2, 2, [[1, 1], [1, 1]]⟩ m1234 0 0).mat 0).rows =
      ((matrices ⟨2, 2, [[1, 1], [1, 1]]⟩ m1234 0 0).mat 0).cols ∧
    1 < ((matrices ⟨2, 2, [[1, 1], [1, 1]]⟩ m1234 0 0).mat 0).cols ∧
    dependentColumn ((matrices ⟨2, 2, [[1, 1], [1, 1]]⟩ m1234 0 0).mat 0) 1 ∧
    ∀ k, k < 1 → ¬ dependentColumn ((matrices ⟨2, 2, [[1, 1], [1, 1]]⟩ m1234 0 0).mat 0) k := by
  refine ⟨by decide, rfl, by decide, ⟨fun _ => 1, by decide +kernel⟩, fun k hk ⟨f, hf⟩ => ?_⟩
  obtain rfl : k = 0 := by omega
  exact absurd (hf 0 (by decide)) (by simp only [fieldSum]; decide)

theorem witness_MatLoadCmCopiesCodingMatrix : State.reset.configured = false ∧ encoded22.configured = true := ⟨rfl, rfl⟩

/-- CFG_D and CFG_P. -/
def config (d p : Word) : State := { State.reset with cfgD := d, cfgP := p }

theorem witness_ConfigureCommitsOrReports :
    (config 0 1).cfgD.toNat = 0 ∧ (config 1 0).cfgP.toNat = 0 ∧
    256 < (config 256 1).cfgD.toNat + (config 256 1).cfgP.toNat ∧
    256 < (config 0xFFFFFFFF 2).cfgD.toNat + (config 0xFFFFFFFF 2).cfgP.toNat ∧
    (1 ≤ (config 1 255).cfgD.toNat ∧ 1 ≤ (config 1 255).cfgP.toNat ∧
      (config 1 255).cfgD.toNat + (config 1 255).cfgP.toNat ≤ 256) ∧
    codingMatrix (config 2 2).cfgD.toNat (config 2 2).cfgP.toNat = .matrix cm22 := by decide +kernel

theorem witness_CodingMatrixIsSystematic :
    1 ≤ 2 ∧ 2 + 2 ≤ 256 ∧ codingMatrix 2 2 = .matrix cm22 ∧ (2 ≤ 3 ∧ 3 < 2 + 2 ∧ 1 < 2) := by decide +kernel

theorem witness_ConfigureIsNeverSingular :
    1 ≤ (config 255 1).cfgD.toNat ∧ 1 ≤ (config 255 1).cfgP.toNat ∧
    (config 255 1).cfgD.toNat + (config 255 1).cfgP.toNat ≤ 256 := by decide

theorem witness_AnyDRowsAreInvertible :
    1 ≤ 2 ∧ 2 + 2 ≤ 256 ∧ codingMatrix 2 2 = .matrix cm22 ∧ [3, 1].Nodup ∧ [3, 1].length = 2 ∧ ∀ i ∈ [3, 1], i < 2 + 2 := by
  decide +kernel

/-- The checks of VERIFY pass on the collection of 95 V2. -/
theorem coder22_ready : Ready (coder22 [] []) 3 where
  counted := ⟨rfl, rfl⟩
  first := by decide +kernel
  sizes := by decide +kernel
  bounds := by decide +kernel

/-- They do not look at shard memory. -/
theorem encoded22_ready : Ready encoded22 3 :=
  ⟨coder22_ready.counted, coder22_ready.first, coder22_ready.sizes, coder22_ready.bounds⟩

/-- `coder22` with slot i's buffer moved to address `a`. -/
def moved (i : Fin 256) (a : Word) : State :=
  { coder22 [] [] with shardAddr := (coder22 [] []).shardAddr.set i.val a }

/-- `coder22` with SHARD_LEN[i] set to `l`. -/
def resized (i : Fin 256) (l : Word) : State :=
  { coder22 [] [] with shardLen := (coder22 [] []).shardLen.set i.val l }

/-- A buffer that ends at SHMEM_SIZE is accepted, and buffers that touch do not overlap. -/
theorem witness_EncodeWritesParity :
    Ready (coder22 [] []) 3 ∧
    (∀ i, i < total (coder22 [] []) → data (coder22 [] []) ≤ i → ¬ overlaps (coder22 [] []) 3 i) ∧
    (∀ i, i < total (moved 3 0x23) → data (moved 3 0x23) ≤ i → ¬ overlaps (moved 3 0x23) 3 i) ∧
    ¬ endsPast (moved 3 0xFFFFD) 3 3 :=
  ⟨coder22_ready, by decide +kernel, by decide +kernel, by decide +kernel⟩

theorem witness_VerifyWritesTheVerdict : Ready encoded22 3 := encoded22_ready

theorem witness_EncodeAndVerifyReportFirstFailedCheck :
    State.reset.configured = false ∧
    ({ coder22 [] [] with shardCount := 3 } : State).shardCount.toNat < total { coder22 [] [] with shardCount := 3 } ∧
    total { coder22 [] [] with shardCount := 5 } < ({ coder22 [] [] with shardCount := 5 } : State).shardCount.toNat ∧
    (counted (resized 0 0) ∧ IsFirst (sizeBad (resized 0 0) ((resized 0 0).lenOf 0)) 0 (total (resized 0 0)) 0) ∧
    (counted (resized 3 4) ∧ IsFirst (sizeBad (resized 3 4) ((resized 3 4).lenOf 0)) 0 (total (resized 3 4)) 3) ∧
    (counted (moved 2 0xFFFFE) ∧ (∀ k, k < total (moved 2 0xFFFFE) → ¬ sizeBad (moved 2 0xFFFFE) 3 k) ∧
      (moved 2 0xFFFFE).lenOf 0 = 3 ∧ IsFirst (endsPast (moved 2 0xFFFFE) 3) 0 (total (moved 2 0xFFFFE)) 2) ∧
    (Ready (moved 3 0x22) 3 ∧ (moved 3 0x22).lenOf 0 = 3 ∧
      IsFirst (overlaps (moved 3 0x22) 3) (data (moved 3 0x22)) (total (moved 3 0x22)) 2) :=
  ⟨rfl, by decide +kernel, by decide +kernel, by decide +kernel, by decide +kernel, by decide +kernel,
    ⟨⟨rfl, rfl⟩, by decide +kernel, by decide +kernel, by decide +kernel⟩, by decide +kernel, by decide +kernel⟩

/-- `encoded22` with these presence bits. -/
def sparse (p : BitVec 256) : State := { encoded22 with present := p }

/-- The checks (1) to (4) of RECONSTRUCT pass with all slots, and with slots 1 and 2 alone, present. -/
theorem sparse_recoverable : Recoverable (sparse 0xF) 3 ∧ Recoverable (sparse 0x6) 3 :=
  ⟨⟨⟨rfl, rfl⟩, by decide, by decide +kernel, by decide +kernel⟩,
    ⟨⟨rfl, rfl⟩, by decide, by decide +kernel, by decide +kernel⟩⟩

/-- DM = [[0,1],[3,2]], of determinant 3: its inverse by hand is [[2/3, 1/3], [1, 0]], with 1/3 = 0xF4 (95 T1). -/
theorem witness_ReconstructFillsAbsentSlots :
    (Recoverable (sparse 0xF) 3 ∧ ∀ i, i < total (sparse 0xF) → here (sparse 0xF) i) ∧
    Recoverable (sparse 0x6) 3 ∧ (∃ i, i < total (sparse 0x6) ∧ ¬ here (sparse 0x6) i) ∧
    (∀ i, i < total (sparse 0x6) → ¬ endsPast (sparse 0x6) 3 i) ∧
    (∀ i, i < total (sparse 0x6) → ¬ here (sparse 0x6) i → ¬ overlaps (sparse 0x6) 3 i) ∧
    (sparse 0x6).decodeMatrix.invert = .matrix ⟨2, 2, [[0xF5, 0xF4], [1, 0]]⟩ :=
  ⟨⟨sparse_recoverable.1, by decide +kernel⟩, sparse_recoverable.2, by decide +kernel, by decide +kernel,
    by decide +kernel, by decide +kernel⟩

theorem witness_ReconstructReportsFirstFailedCheck :
    State.reset.configured = false ∧
    ({ sparse 0x6 with shardCount := 3 } : State).shardCount.toNat < total { sparse 0x6 with shardCount := 3 } ∧
    total { sparse 0x6 with shardCount := 5 } < ({ sparse 0x6 with shardCount := 5 } : State).shardCount.toNat ∧
    (counted (sparse 0x4) ∧ (presentList (sparse 0x4)).length < data (sparse 0x4)) ∧
    (counted { resized 2 0 with present := 0x6 } ∧ 1 ≤ data { resized 2 0 with present := 0x6 } ∧
      data { resized 2 0 with present := 0x6 } ≤ (presentList { resized 2 0 with present := 0x6 }).length ∧
      IsFirst (here { resized 2 0 with present := 0x6 }) 0 (total { resized 2 0 with present := 0x6 }) 1 ∧
      IsFirst (fun i => here { resized 2 0 with present := 0x6 } i ∧ sizeBad { resized 2 0 with present := 0x6 }
        (State.lenOf { resized 2 0 with present := 0x6 } 1) i) 0 (total { resized 2 0 with present := 0x6 }) 2) ∧
    (Recoverable { moved 3 0xFFFFE with present := 0x6 } 3 ∧
      IsFirst (endsPast { moved 3 0xFFFFE with present := 0x6 } 3) 0 (total { moved 3 0xFFFFE with present := 0x6 }) 3) ∧
    (Recoverable { moved 3 0x22 with present := 0x6 } 3 ∧
      (∀ k, k < total { moved 3 0x22 with present := 0x6 } → ¬ endsPast { moved 3 0x22 with present := 0x6 } 3 k) ∧
      IsFirst (fun i => ¬ here { moved 3 0x22 with present := 0x6 } i ∧
        overlaps { moved 3 0x22 with present := 0x6 } 3 i) 0 (total { moved 3 0x22 with present := 0x6 }) 3) ∧
    (Recoverable { sparse 0x6 with cm := Mat.zero 4 2 } 3 ∧
      (∀ k, k < total { sparse 0x6 with cm := Mat.zero 4 2 } → ¬ here { sparse 0x6 with cm := Mat.zero 4 2 } k →
        ¬ overlaps { sparse 0x6 with cm := Mat.zero 4 2 } 3 k) ∧
      (State.decodeMatrix { sparse 0x6 with cm := Mat.zero 4 2 }).invert = .singular 0) := by
  refine ⟨rfl, by decide +kernel, by decide +kernel, by decide +kernel, by decide +kernel, ?_, ?_, ?_⟩
  · exact ⟨⟨⟨rfl, rfl⟩, by decide, by decide +kernel, by decide +kernel⟩, by decide +kernel⟩
  · exact ⟨⟨⟨rfl, rfl⟩, by decide, by decide +kernel, by decide +kernel⟩, by decide +kernel, by decide +kernel⟩
  · exact ⟨⟨⟨rfl, rfl⟩, by decide, by decide +kernel, by decide +kernel⟩, by decide +kernel, by decide +kernel⟩

theorem witness_EncodeThenVerifySucceeds : ∃ t, exec .encode (coder22 [] []) = .next t ∧ t.err = false :=
  (next_of (fun t => !t.err) (by decide +kernel)).imp fun _ h => ⟨h.1, by simpa using h.2⟩

/-- Slot 0 absent, slot 1 holding the one byte 5 of the message 5. -/
theorem witness_ReconstructRestoresTheCollection :
    coder11.Inv ∧ (∀ i, i < total coder11 → here coder11 i → coder11.lenOf i = 1) ∧
    (∀ i k, i < total coder11 → here coder11 i → k < 1 → coder11.byteAt (coder11.addrOf i + k) =
      fieldSum (fun j => gfMul (coder11.cm.at i j) ((fun _ _ => 5) j k)) (data coder11)) ∧
    ∃ t, exec .reconstruct coder11 = .next t ∧ t.err = false := by
  refine ⟨coder11_inv, by decide +kernel, fun i k hi hp hk => ?_,
    (next_of (fun t => !t.err) (by decide +kernel)).imp fun _ h => ⟨h.1, by simpa using h.2⟩⟩
  have hi : i < 2 := hi
  obtain rfl : k = 0 := by omega
  obtain rfl | rfl : i = 0 ∨ i = 1 := by omega
  · exact absurd hp (by decide)
  · decide +kernel

theorem witness_ByteCountResult :
    (shards 0 0 0).hint = 0#32 ∧ (shards 0 0 5).hint ≠ 0#32 ∧ (shards 0 0 0).shardCount = 0#32 ∧
    (shards 300 0 0).shardCount ≠ 0#32 := by decide

theorem witness_ByteCountOptResult :
    256 < (shards 257 0 0).shardCount.toNat ∧ (shards 256 0 0).shardCount.toNat ≤ 256 ∧ (shards 256 0 0).hint = 0#32 ∧
    (∀ i, i < (shards 4 0x10 6).shardCount.toNat → ¬ here (shards 4 0x10 6) i) ∧ (shards 4 0x10 6).hint ≠ 0#32 ∧
    IsFirst (here (shards 4 0xC 6)) 0 (shards 4 0xC 6).shardCount.toNat 2 := by decide +kernel

theorem witness_MarkAllPresentResult :
    256 < (shards 257 0 0).shardCount.toNat ∧ (shards 256 0 0).shardCount.toNat ≤ 256 := by decide

theorem witness_CheckAllPresentResult :
    256 < (shards 257 0 0).shardCount.toNat ∧ (shards 3 0x5 0).shardCount.toNat ≤ 256 ∧
    IsFirst (fun i => ¬ here (shards 3 0x5 0) i) 0 (shards 3 0x5 0).shardCount.toNat 1 ∧
    ∀ i, i < (shards 3 0xF7 0).shardCount.toNat → here (shards 3 0xF7 0) i := by decide +kernel

/-- The window of 95 T5: six slots, 1 to 4 present. -/
def window (start count : Word) : State := { shards 6 0x1E 0 with winStart := start, winCount := count }

theorem witness_CheckWindowResult :
    256 < (shards 257 0 0).shardCount.toNat ∧ (window 7 0).shardCount.toNat ≤ 256 ∧
    (window 7 0).shardCount.toNat < (window 7 0).winStart.toNat ∧
    (window 3 4).shardCount.toNat < (window 3 4).winStart.toNat + (window 3 4).winCount.toNat ∧
    (window 6 0).winStart.toNat + ((window 6 0).shardCount.toNat - (window 6 0).winStart.toNat) ≤
      (window 6 0).shardCount.toNat ∧
    IsFirst (fun i => ¬ here (window 1 0) i) (window 1 0).winStart.toNat
      ((window 1 0).winStart.toNat + ((window 1 0).shardCount.toNat - (window 1 0).winStart.toNat)) 5 ∧
    IsFirst (fun i => ¬ here (window 0 4) i) 0 (0 + (window 0 4).winCount.toNat) 0 ∧
    ∀ i, i < (window 1 4).winStart.toNat + (window 1 4).winCount.toNat → (window 1 4).winStart.toNat ≤ i →
      here (window 1 4) i := by decide +kernel

theorem witness_CountPresentResult :
    256 < (shards 257 0 0).shardCount.toNat ∧ (shards 256 0 0).shardCount.toNat ≤ 256 := by decide

/-- The last mapped offsets of the registers and of SHMEM are accepted, the next ones are not; the registers open while
BUSY = 1, and a bus error that an `attempt` meets. -/
theorem witness_BusErrorsAndNothingElseFault :
    ¬ busErrorDue .reset (0x0064 ≤ 0x0020) 32 0x0064 ∧ busErrorDue .reset (0x0068 ≤ 0x0020) 32 0x0068 ∧
    ¬ busErrorDue .reset (0x10FFFFC ≤ 0x0020) 32 0x10FFFFC ∧ busErrorDue .reset (0x1100000 ≤ 0x0020) 32 0x1100000 ∧
    ¬ busErrorDue (pending 5 []) (0x0020 ≤ 0x0020) 32 0x0020 ∧ busErrorDue (pending 5 []) (0x0024 ≤ 0x0020) 32 0x0024 ∧
    ¬ busErrorDue (pending 5 []) (0x001C = 0x001C ∨ 0x001C = 0x0020) 32 0x001C ∧
    busErrorDue .reset (0x0000 ≤ 0x0020) 16 0x0000 ∧ busErrorDue .reset (0x0002 ≤ 0x0020) 32 0x0002 ∧
    busErrorDue .reset (0x10000 ≤ 0x0020) 32 0x10000 ∧ busErrorDue .reset (0x100000 ≤ 0x0020) 32 0x100000 := by
  refine ⟨?_, ?_, ?_, ?_, ?_, ?_, ?_, ?_, ?_, ?_, ?_⟩ <;> decide +kernel

theorem witness_attempt : hostAccess (.read 32 0x0068) .reset = .fault (.busError .unmapped 0x0068) := rfl

theorem witness_ReadsHaveNoSideEffects : ∃ t, hostRead 32 0x0000 .reset = .next t := ⟨_, rfl⟩

theorem witness_ReadOnlyLocationsIgnoreWrites :
    encoded22.busy = false ∧ readOnlyOffset 0x005C ∧ readOnlyOffset 0x007C ∧ readOnlyOffset 0x05FC ∧
    (0x10300 = 0x10000 + 0x100 * 3 + 4 * 0 ∧ 3 < encoded22.nTotal.toNat ∧ 4 * 0 < encoded22.nData.toNat) ∧
    ¬(4 < encoded22.nTotal.toNat ∧ 4 * 0 < encoded22.nData.toNat) ∧
    ¬(3 < encoded22.nTotal.toNat ∧ 4 * 1 < encoded22.nData.toNat) := by decide

theorem witness_WrittenRegistersReadBack :
    State.reset.busy = false ∧ implementedBits 0x0010 = some 0xFFFFFFFF#32 ∧ implementedBits 0x001C = some 1#32 ∧
    implementedBits 0x0054 = some 0xFF#32 ∧ implementedBits 0x011C = some 0xFFFFFFFF#32 ∧
    implementedBits 0x0FFC = some 0xFFFFFFFF#32 ∧ implementedBits 0x1BFC = some 0xFFFF#32 ∧
    hostRead 32 0x0028 .reset = .next (answered .reset (.data 0#32)) :=
  ⟨rfl, by decide, by decide, by decide, by decide, by decide, by decide, rfl⟩

theorem witness_RegistersReadTheirFields :
    encoded22.busy = false ∧ (encoded22.mat 3).rows < 0x10000 ∧ (encoded22.mat 3).cols < 0x10000 := by decide

/-- A state with another value in each register whose offset a statement fixes by name. -/
def labelled : State :=
  { State.reset with doneIp := true, cfgD := 1, cfgP := 2, shardCount := 3, hint := 4, winStart := 5, winCount := 6,
                     aluA := 7, aluB := 8, aluN := 9, matArgRows := 10, matArgCols := 11,
                     present := 1#256 <<< 255, shardAddr := State.reset.shardAddr.set 255 12,
                     shardLen := State.reset.shardLen.set 255 13, idxR := State.reset.idxR.set 255 14,
                     idxC := State.reset.idxC.set 511 15 }

/-- The offsets of 20 R101, the last word of every array among them. -/
theorem test_read_offsets :
    reads labelled 0x0020 1 ∧ reads labelled 0x0024 1 ∧ reads labelled 0x0028 2 ∧ reads labelled 0x0038 3 ∧
    reads labelled 0x003C 4 ∧ reads labelled 0x0040 5 ∧ reads labelled 0x0044 6 ∧ reads labelled 0x0050 7 ∧
    reads labelled 0x0054 8 ∧ reads labelled 0x0058 9 ∧ reads labelled 0x0060 10 ∧ reads labelled 0x0064 11 ∧
    reads labelled 0x011C 0x80000000 ∧ reads labelled 0x0FF8 12 ∧ reads labelled 0x0FFC 13 ∧
    reads labelled 0x13FC 14 ∧ reads labelled 0x04FC 0xAF5850A8 := by
  refine ⟨rfl, rfl, rfl, rfl, rfl, rfl, rfl, rfl, rfl, rfl, rfl, rfl, rfl, rfl, rfl, rfl, rfl⟩

theorem test_read_last_idxC : locate labelled.shmemSize 0x1BFC = some (.idxC 511) ∧
    labelled.readLoc (.idxC 511) = some 15 := by decide +kernel

theorem witness_ShmemWindowWords :
    legalShmemSize State.reset.shmemSize ∧ State.reset.busy = false ∧ 0xFFFFC % 4 = 0 ∧ 0xFFFFC < State.reset.shmemSize :=
  ⟨⟨by decide, by decide, by decide⟩, rfl, by decide, by decide⟩

theorem witness_MatrixWindowWords :
    (asks 0 0).busy = false ∧ (1 < ((asks 0 0).mat 1).rows ∧ 4 * 0 < ((asks 0 0).mat 1).cols) ∧
    ¬(2 < ((asks 0 0).mat 1).rows ∧ 4 * 0 < ((asks 0 0).mat 1).cols) ∧
    ¬(1 < ((asks 0 0).mat 1).rows ∧ 4 * 1 < ((asks 0 0).mat 1).cols) ∧
    encoded22.busy = false ∧ (3 < encoded22.nTotal.toNat ∧ 4 * 0 < encoded22.nData.toNat) ∧
    ¬(4 < encoded22.nTotal.toNat ∧ 4 * 0 < encoded22.nData.toNat) ∧
    ¬(3 < encoded22.nTotal.toNat ∧ 4 * 1 < encoded22.nData.toNat) := by decide

theorem witness_InterruptPendingAndEnable :
    (∃ t, exec .gfAdd .reset = .next t) ∧ (1#32).getLsbD 0 = true ∧ (0xFFFFFFFE#32).getLsbD 0 = false ∧
    State.reset.busy = false := ⟨⟨_, rfl⟩, by decide, by decide, rfl⟩

theorem witness_ResetPutsEveryRegisterToItsValue : (pending 5 [.reset]).host.moves = [.reset] := rfl

theorem witness_EveryStepKeepsTheInvariant :
    State.Inv (coder11.withMoves [.access (.write 32 0x0024 7)]) ∧
    ∃ t, step (coder11.withMoves [.access (.write 32 0x0024 7)]) = .next t ∧ t.cfgD = 7 :=
  ⟨coder11_inv_withMoves _,
    (next_of (fun t => t.cfgD == 7) (by decide +kernel)).imp fun _ h => ⟨h.1, by simpa using h.2⟩⟩

end Sys2Proof.Tests
end

section
/-! SUPPORT. What a command, a host write and a step can do, each said once, and that each keeps the invariant. -/

namespace Sys2Proof.Machine

open Sys2Proof.Claims

/-! ### The effect of a command -/

/-- What a command that succeeds has done to the state, before its completion sets the flags (40 R204). A matrix command
writes its destination and nothing else, and in a state of the invariant what it writes is a legal matrix (10 R61). -/
inductive Effect (s : State) : Instr → State → Prop
  | kept (i : Instr) : Effect s i s
  | configured (x : Mat) (hd : 1 ≤ s.cfgD.toNat) (hp : 1 ≤ s.cfgP.toNat) (hn : s.cfgD.toNat + s.cfgP.toNat ≤ 256)
      (hx : codingMatrix s.cfgD.toNat s.cfgP.toNat = .matrix x) :
      Effect s .configure (s.setConfig s.cfgD.toNat s.cfgP.toNat x)
  | encoded (len : Nat) (hb : ∀ i ∈ s.allSlots, s.addrOf i + len ≤ s.shmemSize) :
      Effect s .encode (s.encodeShards len)
  | verified (ok : Bool) : Effect s .verify (s.setVerifyOk ok)
  | reconstructed (inv : Mat) (len : Nat) (hb : ∀ i ∈ s.allSlots, s.addrOf i + len ≤ s.shmemSize) :
      Effect s .reconstruct (s.reconstructShards inv len)
  | byteCounted (f : Bool) (v : Word) : Effect s (.byteCount f) (s.setByteCount v)
  | byteCountedOpt (f : Bool) (v : Word) : Effect s (.byteCountOpt f) (s.setByteCount v)
  | marked (is : List Nat) : Effect s .markAllPresent { s with present := setPresent s.present is }
  | counted (v : BitVec 9) (hv : v.toNat ≤ 256) : Effect s .countPresent { s with presentCount := v }
  | computed (i : Instr) (hi : i ∈ [.gfAdd, .gfSub, .gfMul, .gfDiv, .gfExp]) (v : Byte) : Effect s i (s.setAluR v)
  | matrix (i : Instr) (d : MatReg) (hi : destination i = some d) (x : Mat) (hx : s.Inv → x.wf = true) :
      Effect s i (s.setMat d x)

/-- The dimensions of a legal matrix that is not the undefined one (10 R61). -/
theorem dims_of_wf {a : Mat} (h : a.wf = true) (h0 : a.rows ≠ 0) :
    1 ≤ a.rows ∧ a.rows ≤ 256 ∧ 1 ≤ a.cols ∧ a.cols ≤ 512 := by
  simp only [Mat.wf, Bool.and_eq_true, decide_eq_true_eq] at h
  obtain ⟨⟨⟨⟨hr, hc⟩, hz⟩, -⟩, -⟩ := h
  have hr : a.rows ≤ 256 := hr
  have hc : a.cols ≤ 512 := hc
  omega

/-- Of `n` slots at most `n` are present (44 R455). -/
theorem length_presentSlots_le (s : State) (n : Nat) : (s.presentSlots n).length ≤ n := by
  simpa [State.presentSlots] using List.length_filter_le (fun i => s.isPresent i) (List.range n)

/-- Once configured, CM is a legal matrix (10 R41). -/
theorem wf_cm {s : State} (hs : s.Inv) (hc : s.configured = true) : s.cm.wf = true := by
  obtain ⟨hd, -, hn, hx⟩ := hs.configuredAs hc
  exact wf_codingMatrix hx hd (hs.total ▸ hn)

/-- A rule that reaches its end has had the command's effect (40 R202). -/
theorem effect_of_ruleOf {i : Instr} {s u : State} (h : ruleOf i s = .ok u) : Effect s i u := by
  cases i with
  | configure =>
    obtain ⟨hd, hp, hn, x, hx, rfl⟩ := configureRule_ok h
    exact .configured x (by omega) (by omega) hn hx
  | encode =>
    obtain ⟨len, hc, rfl⟩ := encodeRule_ok h
    obtain ⟨-, -, -, -, hb, -⟩ := (encodeChecks_ok s len).1 hc
    exact .encoded len hb
  | verify =>
    obtain ⟨len, -, rfl⟩ := verifyRule_ok h
    exact .verified _
  | reconstruct =>
    obtain ⟨len, -, ⟨-, rfl⟩ | ⟨-, hb, -, inv, -, rfl⟩⟩ := reconstructRule_ok h
    · exact .kept _
    · exact .reconstructed inv len hb
  | byteCount f =>
    obtain ⟨v, rfl⟩ := byteCountRule_ok h
    exact .byteCounted f v
  | byteCountOpt f =>
    obtain ⟨v, rfl⟩ := byteCountOptRule_ok h
    exact .byteCountedOpt f v
  | markAllPresent =>
    obtain ⟨-, rfl⟩ := markAllPresentRule_ok h
    exact .marked _
  | checkAllPresent => exact checkAllPresentRule_ok h ▸ .kept _
  | checkWindow f0 f1 => exact checkWindowRule_ok h ▸ .kept _
  | countPresent =>
    obtain ⟨hn, rfl⟩ := countPresentRule_ok h
    have hl := length_presentSlots_le s s.shardCount.toNat
    exact .counted _ (by rw [BitVec.toNat_ofNat]; omega)
  | gfAdd | gfSub | gfMul | gfExp => exact Except.ok.inj h ▸ .computed _ (by simp) _
  | gfDiv =>
    obtain ⟨c, -, rfl⟩ := gfDivRule_ok h
    exact .computed _ (by simp) c
  | matNew md =>
    obtain ⟨hdim, rfl⟩ := matNewRule_ok h
    exact .matrix _ md rfl _ fun _ => wf_build _ hdim
  | matIdentity md =>
    obtain ⟨hdim, rfl⟩ := matIdentityRule_ok h
    exact .matrix _ md rfl _ fun _ => wf_build _ (by omega)
  | matVandermonde md =>
    obtain ⟨hdim, rfl⟩ := matVandermondeRule_ok h
    exact .matrix _ md rfl _ fun _ => wf_build _ hdim
  | matMul md ma mb =>
    obtain ⟨ha, hb, -, rfl⟩ := matMulRule_ok h
    refine .matrix _ md rfl _ fun hs => wf_build _ ?_
    have hda := dims_of_wf (hs.matsWf ma) ha
    have hdb := dims_of_wf (hs.matsWf mb) hb
    omega
  | matAugment md ma mb =>
    obtain ⟨ha, -, -, hc, rfl⟩ := matAugmentRule_ok h
    refine .matrix _ md rfl _ fun hs => wf_build _ ?_
    have hda := dims_of_wf (hs.matsWf ma) ha
    omega
  | matSubmatrix md ma =>
    obtain ⟨-, hdim, -, -, rfl⟩ := matSubmatrixRule_ok h
    exact .matrix _ md rfl _ fun _ => wf_build _ (by simpa using hdim)
  | matInvert md ma =>
    obtain ⟨ha, -, b, hb, rfl⟩ := matInvertRule_ok h
    refine .matrix _ md rfl _ fun hs => ?_
    have hda := dims_of_wf (hs.matsWf ma) ha
    exact wf_invert hb hda.1 hda.2.1
  | matLoadCm md =>
    obtain ⟨hc, rfl⟩ := matLoadCmRule_ok h
    exact .matrix _ md rfl _ fun hs => wf_cm hs hc

/-- What a command does (40 R204, R205): its effect and a successful completion, or an error report alone. -/
theorem exec_next {i : Instr} {s t : State} (h : exec i s = .next t) :
    (∃ u, Effect s i u ∧ t = u.completeOk) ∨ ∃ e, t = s.completeErr e := by
  rw [exec_eq_complete] at h
  obtain ⟨u, hu, rfl⟩ | ⟨e, -, rfl⟩ := complete_cases h
  · exact .inl ⟨u, effect_of_ruleOf hu, rfl⟩
  · exact .inr ⟨e, rfl⟩

/-! ### The invariant -/

/-- The fields the invariant speaks of. -/
def State.invFields (s : State) :=
  (s.shmemSize, s.shmem, s.nTotal, s.nData, s.nParity, s.configured, s.cm, s.mats, s.errCode, s.busy, s.done, s.err,
    s.errInfo, s.presentCount)

/-- The invariant depends on those fields alone. -/
theorem inv_congr {s t : State} (hs : s.Inv) (h : t.invFields = s.invFields) : t.Inv := by
  simp only [State.invFields, Prod.mk.injEq] at h
  obtain ⟨h1, h2, h3, h4, h5, h6, h7, h8, h9, h10, h11, h12, h13, h14⟩ := h
  have hm (m : MatReg) : t.mat m = s.mat m := by simp only [State.mat, h8]
  constructor <;> simp only [h1, h2, h3, h4, h5, h6, h7, h9, h10, h11, h12, h13, h14, hm]
  exacts [hs.size, hs.shmemWf, hs.shmemInside, hs.total, hs.unconfigured, hs.configuredAs, hs.matsWf, hs.errCodeLegal,
    hs.busyClear, hs.errReport, hs.errDone, hs.presentCountRange]

/-- A destination write of a legal matrix keeps the invariant (10 R61, 42 R301). -/
theorem inv_setMat {s : State} (hs : s.Inv) (d : MatReg) {x : Mat} (hx : x.wf = true) : (s.setMat d x).Inv :=
  { hs with
    matsWf := fun m => by
      rw [mat_setMat]
      split_ifs
      · exact hx
      · exact hs.matsWf m }

/-- A write of bytes inside SHMEM keeps the invariant (20 R113). -/
theorem inv_setShmem {s : State} (hs : s.Inv) {m : Memory} (hw : m.wf = true) (hi : ∀ c ∈ m, c.1 < s.shmemSize) :
    { s with shmem := m }.Inv :=
  { hs with shmemWf := hw, shmemInside := hi }

/-- The commit of a legal configuration keeps the invariant (43 R380). -/
theorem inv_setConfig {s : State} (hs : s.Inv) {d p : Nat} {x : Mat} (hd : 1 ≤ d) (hp : 1 ≤ p) (hn : d + p ≤ 256)
    (hx : codingMatrix d p = .matrix x) : (s.setConfig d p x).Inv := by
  have fits {n : Nat} (h : n ≤ d + p) : (BitVec.ofNat 32 n).toNat = n := by
    rw [BitVec.toNat_ofNat]; omega
  have hD := fits (Nat.le_add_right d p)
  have hP := fits (Nat.le_add_left p d)
  have hN := fits le_rfl
  exact { hs with
    total := by simp only [setConfig_fields, hD, hP, hN]
    unconfigured := nofun
    configuredAs := fun _ => by
      simp only [setConfig_fields, hD, hP, hN]
      exact ⟨hd, hp, hn, hx⟩ }

/-- A parity slot is a slot of the collection (43 R390). -/
theorem allSlots_of_paritySlots {s : State} (hs : s.Inv) {i : Nat} (hi : i ∈ s.paritySlots) : i ∈ s.allSlots := by
  have ht := hs.total
  rw [mem_paritySlots (by omega)] at hi
  exact mem_allSlots.2 hi.2

/-- A command's effect keeps the invariant. -/
theorem inv_effect {i : Instr} {s u : State} (hs : s.Inv) (h : Effect s i u) : u.Inv := by
  cases h with
  | kept => exact hs
  | configured x hd hp hn hx => exact inv_setConfig hs hd hp hn hx
  | encoded len hb =>
    refine inv_setShmem hs (wf_writeSlots _ _ _ _ hs.shmemWf) (inside_writeSlots _ _ _ _ _ hs.shmemInside ?_)
    intro i hi
    rw [length_parity]
    exact hb i (allSlots_of_paritySlots hs hi)
  | reconstructed inv len hb =>
    refine inv_congr (inv_setShmem hs (wf_writeSlots s (s.restored inv len) (s.absentSlots s.nTotal.toNat) _ hs.shmemWf)
      (inside_writeSlots _ _ _ _ _ hs.shmemInside ?_)) rfl
    intro i hi
    rw [length_restored]
    exact hb i (mem_allSlots.2 (mem_absentSlots.1 hi).1)
  | counted v hv => exact { hs with presentCountRange := hv }
  | matrix _ d _ x hx => exact inv_setMat hs d (hx hs)
  | verified | byteCounted | byteCountedOpt | marked | computed => exact inv_congr hs rfl

/-- A successful completion keeps the invariant (40 R204). -/
theorem inv_completeOk {s : State} (hs : s.Inv) : s.completeOk.Inv :=
  { hs with
    errCodeLegal := .inl rfl
    busyClear := nofun
    errReport := ⟨by simp, fun _ => rfl⟩
    errDone := nofun }

/-- No error code is NONE (60 R500). -/
theorem value_ne_errNone (c : ErrCode) : c.value ≠ errNone := by cases c <;> decide

/-- An error report keeps the invariant (40 R205). -/
theorem inv_completeErr {s : State} (hs : s.Inv) (e : CmdError) : (s.completeErr e).Inv :=
  { hs with
    errCodeLegal := .inr ⟨e.code, rfl⟩
    busyClear := nofun
    errReport := ⟨by simp [value_ne_errNone], nofun⟩
    errDone := fun _ => rfl }

/-- The issue of a command keeps the invariant (40 R200). -/
theorem inv_issue {s : State} (hs : s.Inv) (w : Word) : (s.issue w).Inv :=
  { hs with
    errCodeLegal := .inl rfl
    busyClear := fun _ => ⟨rfl, rfl⟩
    errReport := ⟨by simp, fun _ => rfl⟩
    errDone := nofun }

/-- The state after reset meets the invariant (70 R550). -/
theorem inv_reset : State.reset.Inv where
  size := ⟨by decide, by decide, by decide⟩
  shmemWf := wf_reset
  shmemInside := nofun
  total := rfl
  unconfigured := fun _ => ⟨rfl, rfl, rfl, rfl⟩
  configuredAs := nofun
  matsWf := by decide
  errCodeLegal := .inl rfl
  busyClear := nofun
  errReport := ⟨by decide, fun _ => rfl⟩
  errDone := nofun
  presentCountRange := by decide

/-- The reset input restores the invariant; it keeps the parameter SHMEM_SIZE (70 R551, log 1). -/
theorem inv_hardReset {s : State} (hs : s.Inv) : s.hardReset.Inv :=
  { inv_reset with size := hs.size, shmemInside := nofun }

/-- A command keeps the invariant. -/
theorem inv_exec {i : Instr} {s t : State} (hs : s.Inv) (h : exec i s = .next t) : t.Inv := by
  obtain ⟨u, hu, rfl⟩ | ⟨e, rfl⟩ := exec_next h
  · exact inv_completeOk (inv_effect hs hu)
  · exact inv_completeErr hs e

/-- The engine's step keeps the invariant (40 R201). -/
theorem inv_engineStep {s t : State} (hs : s.Inv) (h : engineStep s = .next t) : t.Inv := by
  unfold engineStep at h
  split at h
  · split at h
    · exact inv_exec hs h
    · exact Host.Outcome.next.inj h ▸ inv_completeErr hs _
  · exact Host.Outcome.next.inj h ▸ hs

/-! ### Host accesses -/

/-- What a completed host write does to the fields of the invariant: nothing, or it issues a command, or writes a word of
a matrix register, or a word of shard memory (20 R107-R111, 40 R200). -/
theorem writeLoc_cases {s t : State} {v : Word} {l : Loc} (h : s.writeLoc v l = some t) :
    t.invFields = s.invFields ∨ t = s.issue v ∨
    (∃ m r w, r < (s.mat m).rows ∧ t = s.setMat m (writeMatWord (s.mat m) r w v)) ∨
    ∃ a, l = .shmem a ∧
      t = { s with shmem := s.shmem.storeBytes a [laneOf v 0, laneOf v 1, laneOf v 2, laneOf v 3] } := by
  cases l with
  | cmd => exact .inr (.inl (Option.some.inj h).symm)
  | cmWord r w =>
    simp only [State.writeLoc, Option.ite_none_right_eq_some, Option.some.injEq] at h
    exact .inl (h.2 ▸ rfl)
  | matWord m r w =>
    simp only [State.writeLoc, wordInside, Option.ite_none_right_eq_some, Option.some.injEq, Bool.and_eq_true,
      decide_eq_true_eq] at h
    exact .inr (.inr (.inl ⟨m, r, w, h.1.1, h.2.symm⟩))
  | shmem a => exact .inr (.inr (.inr ⟨a, rfl, (Option.some.inj h).symm⟩))
  | _ => exact .inl (Option.some.inj h ▸ rfl)

/-- A host write of a location of the map keeps the invariant (20 R107-R111). -/
theorem inv_writeLoc {s t : State} {v : Word} {l : Loc} {o : Nat} (hs : s.Inv) (hl : locate s.shmemSize o = some l)
    (h : s.writeLoc v l = some t) : t.Inv := by
  obtain hf | rfl | ⟨m, r, w, hr, rfl⟩ | ⟨a, rfl, rfl⟩ := writeLoc_cases h
  · exact inv_congr hs hf
  · exact inv_issue hs v
  · exact inv_setMat hs m (wf_writeMatWord r w v (hs.matsWf m) (by omega))
  · have hsize := hs.size.1
    obtain ⟨ha4, ha, -⟩ := locate_shmem hl
    exact inv_setShmem hs (wf_storeBytes _ _ _ hs.shmemWf)
      (inside_storeBytes _ _ _ _ hs.shmemInside (by simp only [List.length_cons, List.length_nil]; omega))

/-- The record of an answer is no field of the invariant (log 3). -/
theorem inv_respond {s : State} (hs : s.Inv) (r : Response) : (s.respond r).Inv := inv_congr hs rfl

/-- Nor are the moves to come (log 3). -/
theorem inv_withMoves {s : State} (hs : s.Inv) (ms : List Move) : (s.withMoves ms).Inv := inv_congr hs rfl

/-- Nor is the outcome of a comparison (log 3). -/
theorem inv_noteCheck {s : State} (hs : s.Inv) (mask value : Word) : (s.noteCheck mask value).Inv := by
  unfold State.noteCheck
  split
  · split_ifs
    · exact hs
    · exact inv_congr hs rfl
  all_goals exact inv_congr hs rfl

/-- A host read keeps the invariant (20 R109). -/
theorem inv_hostRead {s t : State} {bits o : Nat} (hs : s.Inv) (h : hostRead bits o s = .next t) : t.Inv := by
  obtain ⟨-, v, -, -, rfl⟩ := hostRead_next h
  exact inv_respond hs _

/-- A host access keeps the invariant (20 R100). -/
theorem inv_hostAccess {s t : State} {a : Access} (hs : s.Inv) (h : hostAccess a s = .next t) : t.Inv := by
  cases a with
  | read bits o => exact inv_hostRead hs h
  | write bits o v =>
    obtain ⟨l, u, hr, hu, rfl⟩ := hostWrite_next h
    obtain ⟨-, -, hl, -⟩ := reachedLoc_ok hr
    exact inv_respond (inv_writeLoc hs hl hu) _

/-- So does one whose host survives a bus error (20 R105). -/
theorem inv_hostAttempt {s t : State} {a : Access} (hs : s.Inv) (h : hostAttempt a s = .next t) : t.Inv := by
  unfold hostAttempt at h
  split at h
  case h_1 => exact Host.Outcome.next.inj h ▸ inv_respond hs _
  case h_2 u hu => exact Host.Outcome.next.inj h ▸ inv_hostAccess hs hu
  case h_3 => cases h

/-! ### Steps -/

/-- Every move keeps the invariant (40 R199). -/
theorem inv_performMove {s t : State} {m : Move} (hs : s.Inv) (h : performMove m s = .next t) : t.Inv := by
  cases m with
  | access a => exact inv_hostAccess hs h
  | attempt a => exact inv_hostAttempt hs h
  | check o mask value =>
    simp only [performMove] at h
    split at h
    case h_1 u hu => exact Host.Outcome.next.inj h ▸ inv_noteCheck (inv_hostRead hs hu) mask value
    all_goals cases h
  | wait => exact inv_hostRead hs h
  | engine => exact inv_engineStep hs h
  | reset => exact Host.Outcome.next.inj h ▸ inv_hardReset hs

/-- Which agent a step is of (40 R199): the engine, or the first move of the list, taken from it. -/
theorem step_cases (s : State) :
    step s = engineStep s ∨ ∃ m ms, s.host.moves = m :: ms ∧ step s = performMove m (s.withMoves ms) := by
  unfold step nextMove
  split
  · exact .inl rfl
  · rename_i ms hms
    split_ifs
    · exact .inl rfl
    · exact .inr ⟨_, ms, hms, rfl⟩
  · rename_i m ms _ hms
    exact .inr ⟨m, ms, hms, rfl⟩

end Sys2Proof.Machine

open Sys2Proof Sys2Proof.Machine

/-- Settles O58: every field has its reset value. -/
theorem invariantHoldsAfterReset : Obligations.InvariantHoldsAfterReset := inv_reset

/-- Settles O59: a step is the engine's or a move's, and each of those keeps the invariant. -/
theorem everyStepKeepsTheInvariant : Obligations.EveryStepKeepsTheInvariant := by
  intro s t hs h
  obtain he | ⟨m, ms, -, hm⟩ := step_cases s
  · exact inv_engineStep hs (he ▸ h)
  · exact inv_performMove (inv_withMoves hs ms) (hm ▸ h)

end

section
/-! SUPPORT. What the commands leave unchanged: the frames of the effects. -/

namespace Sys2Proof.Machine

open Sys2Proof.Claims

/-! ### Frames -/

/-- The registers only the host writes, and the model's own fields (10 R42-R60). -/
def State.hostWritten (s : State) :=
  (s.cmd, s.doneIe, s.cfgD, s.cfgP, s.shardCount, s.hint, s.winStart, s.winCount, s.shardAddr, s.aluA, s.aluB, s.aluN,
    s.matArgRows, s.matArgCols, s.idxR, s.idxC, s.shmemSize, s.resets, s.host)

/-- No command's effect reaches them. -/
theorem hostWritten_effect {i : Instr} {s u : State} (h : Effect s i u) : u.hostWritten = s.hostWritten := by
  cases h <;> rfl

/-- No command writes them. -/
theorem hostWritten_exec {i : Instr} {s t : State} (h : exec i s = .next t) : t.hostWritten = s.hostWritten := by
  obtain ⟨u, hu, rfl⟩ | ⟨e, rfl⟩ := exec_next h
  · exact (hostWritten_effect hu :)
  · rfl

/-- Setting presence bits clears none (10 R53). -/
theorem getLsbD_setPresent_of_here {p : BitVec 256} {k : Nat} (is : List Nat) (h : p.getLsbD k = true) :
    (setPresent p is).getLsbD k = true := by
  rw [getLsbD_setPresent _ _ _ (BitVec.lt_of_getLsbD h), h, Bool.true_or]

/-- Only the effects of ENCODE and RECONSTRUCT reach shard memory (10 R63). -/
theorem byteAt_effect {i : Instr} {s u : State} (h : Effect s i u) (h1 : i ≠ .encode) (h2 : i ≠ .reconstruct)
    (a : Nat) : u.byteAt a = s.byteAt a := by
  cases h with
  | encoded | reconstructed => contradiction
  | _ => rfl

/-- Only RECONSTRUCT's effect reaches SHARD_LEN (10 R54). -/
theorem shardLen_effect {i : Instr} {s u : State} (h : Effect s i u) (h1 : i ≠ .reconstruct) :
    u.shardLen = s.shardLen := by
  cases h with
  | reconstructed => contradiction
  | _ => rfl

/-- Only the effects of RECONSTRUCT and MARK_ALL_PRESENT reach PRESENT (10 R53). -/
theorem present_effect {i : Instr} {s u : State} (h : Effect s i u) (h1 : i ≠ .reconstruct)
    (h2 : i ≠ .markAllPresent) : u.present = s.present := by
  cases h with
  | reconstructed | marked => contradiction
  | _ => rfl

/-- No effect clears a presence bit (10 R53). -/
theorem here_effect {i : Instr} {s u : State} {k : Nat} (h : Effect s i u) (hk : here s k) : here u k := by
  cases h with
  | reconstructed | marked => exact getLsbD_setPresent_of_here _ hk
  | _ => exact hk

/-- A matrix register changes only as a destination (10 R61, R62). -/
theorem mat_effect {i : Instr} {s u : State} {m : MatReg} (h : Effect s i u) (hm : destination i ≠ some m) :
    u.mat m = s.mat m := by
  cases h with
  | matrix _ d hi x _ => rw [mat_setMat, if_neg fun (e : m = d) => hm (e ▸ hi)]
  | _ => rfl

/-- Every command leaves a completed report (40 R204, R205). -/
theorem exec_completes (i : Instr) (s : State) :
    ∃ t, exec i s = .next t ∧ t.busy = false ∧ t.done = true ∧ t.doneIp = true ∧ t.cmd = s.cmd ∧
      (t.err = false → t.errCode = 0x00#8 ∧ t.errInfo = 0#32) := by
  obtain ⟨t, ht⟩ : ∃ t, exec i s = .next t := by
    rw [exec_eq_complete]
    cases ruleOf i s <;> exact ⟨_, rfl⟩
  have hcmd : t.cmd = s.cmd := congrArg Prod.fst (hostWritten_exec ht)
  refine ⟨t, ht, ?_⟩
  obtain ⟨u, -, rfl⟩ | ⟨e, rfl⟩ := exec_next ht
  · exact ⟨rfl, rfl, rfl, hcmd, fun _ => ⟨rfl, rfl⟩⟩
  · exact ⟨rfl, rfl, rfl, hcmd, nofun⟩

/-- A busy engine completes its word, legal or not (40 R201, R213). -/
theorem engineStep_completes {s : State} (hb : s.busy = true) :
    ∃ t, engineStep s = .next t ∧ t.busy = false ∧ t.done = true ∧ t.doneIp = true ∧ t.cmd = s.cmd := by
  rw [engineStep, if_pos hb]
  split
  · rename_i i _
    obtain ⟨t, ht, hbusy, hdone, hip, hcmd, -⟩ := exec_completes i s
    exact ⟨t, ht, hbusy, hdone, hip, hcmd⟩
  · exact ⟨_, rfl, rfl, rfl, rfl, rfl⟩

/-- The commit of CONFIGURE, its operands as words (43 R380). -/
theorem setConfig_toNat (s : State) (d p : Word) (x : Mat) : s.setConfig d.toNat p.toNat x =
    { s with cm := x, nData := d, nParity := p, nTotal := d + p, configured := true } := by
  simp only [State.setConfig, BitVec.ofNat_add, BitVec.ofNat_toNat, BitVec.setWidth_eq]

/-! ### Another shard memory -/

/-- The state with another shard memory and other draws for its unwritten bytes (10 R63, log 2). -/
def State.withShards (s : State) (m : Memory) (n : Nat) : State := { s with shmem := m, resets := n }

/-- The rule of a command outside ENCODE, VERIFY and RECONSTRUCT neither reads nor writes shard memory (10 R63). -/
theorem ruleOf_withShards {i : Instr} (s : State) (m : Memory) (n : Nat) (h1 : i ≠ .encode) (h2 : i ≠ .verify)
    (h3 : i ≠ .reconstruct) : ruleOf i (s.withShards m n) = (·.withShards m n) <$> ruleOf i s := by
  cases i with
  | encode | verify | reconstruct => contradiction
  | gfAdd | gfSub | gfMul | gfExp => rfl
  | configure =>
    simp only [ruleOf, configureRule, apply_ite (Functor.map (State.withShards · m n))]
    refine ite_congr rfl (fun _ => rfl) fun _ => ?_
    simp only [State.withShards]
    split <;> rfl
  | byteCountOpt f =>
    simp only [ruleOf, byteCountOptRule, map_bind, apply_ite (Functor.map (State.withShards · m n))]
    refine bind_congr fun _ => ite_congr rfl (fun _ => rfl) fun _ => ?_
    have hslots : (s.withShards m n).presentSlots (s.withShards m n).shardCount.toNat =
        s.presentSlots s.shardCount.toNat := rfl
    rw [hslots]
    split <;> rfl
  | gfDiv =>
    simp only [ruleOf, gfDivRule, State.withShards]
    split <;> rfl
  | matInvert =>
    simp only [ruleOf, matInvertRule, map_bind, apply_ite (Functor.map (State.withShards · m n))]
    refine bind_congr fun a => ite_congr rfl (fun _ => rfl) fun _ => ?_
    split <;> rfl
  | _ =>
    simp only [ruleOf, byteCountRule, markAllPresentRule, countPresentRule, checkAllPresentRule, checkWindowRule,
      matNewRule, matIdentityRule, matVandermondeRule, matMulRule, matAugmentRule, matSubmatrixRule, matLoadCmRule,
      map_bind, apply_ite (Functor.map (State.withShards · m n))]
    rfl

/-- A completion neither reads nor writes shard memory. -/
theorem complete_withShards {s t : State} {r : Except CmdError State} (m : Memory) (n : Nat)
    (h : complete s r = .next t) :
    complete (s.withShards m n) ((·.withShards m n) <$> r) = .next (t.withShards m n) := by
  obtain ⟨u, rfl, rfl⟩ | ⟨e, rfl, rfl⟩ := complete_cases h <;> rfl

end Sys2Proof.Machine

open Sys2Proof Sys2Proof.Machine Sys2Proof.Claims

/-- Settles O9: each rule answers a state or an error, and completion turns both into a next state. -/
theorem everyCommandCompletes : Obligations.EveryCommandCompletes := by
  refine ⟨exec_completes, fun s ms hb hmoves => ?_⟩
  obtain hm | hm | hm := hmoves
  · have hstep : step s = engineStep (s.withMoves ms) := by simp only [step, nextMove, hm, performMove]
    exact hstep ▸ engineStep_completes (s := s.withMoves ms) hb
  · have hstep : step s = engineStep s := by simp only [step, nextMove, hm, hb, if_true]
    exact hstep ▸ engineStep_completes hb
  · have hstep : step s = engineStep s := by simp only [step, nextMove, hm]
    exact hstep ▸ engineStep_completes hb

/-- Settles O13: no effect of a command reaches a register only the host writes. -/
theorem commandsKeepHostWrittenRegisters : Obligations.CommandsKeepHostWrittenRegisters := by
  intro i s t h
  simpa only [State.hostWritten, Prod.mk.injEq] using hostWritten_exec h

/-- Settles O14: each effect of a command writes its own result, and an error report none. -/
theorem resultsHaveTheirOwnWriters : Obligations.ResultsHaveTheirOwnWriters := by
  intro i s t h
  obtain ⟨u, hu, rfl⟩ | ⟨e, rfl⟩ := exec_next h
  · cases hu with
    | computed _ hi v => simp [hi]
    | _ => simp
  · simp

/-- Settles O15: ENCODE and RECONSTRUCT alone write shard memory, setting presence bits clears none, and a matrix
command that succeeds writes its destination alone. -/
theorem shardAndMatrixWriters : Obligations.ShardAndMatrixWriters := by
  intro i s t h
  obtain ⟨u, hu, rfl⟩ | ⟨e, rfl⟩ := exec_next h
  · refine ⟨fun h1 h2 a => (byteAt_effect hu h1 h2 a :), fun h1 => (shardLen_effect hu h1 :),
      fun h1 h2 => (present_effect hu h1 h2 :), fun k hk => (here_effect hu hk :), fun m hm => ?_⟩
    obtain hm | hm := hm
    · exact (mat_effect hu hm :)
    · cases hm
  · exact ⟨fun _ _ _ => rfl, fun _ => rfl, fun _ _ => rfl, fun _ hk => hk, fun _ _ => rfl⟩

/-- Settles O16: the rules of the other commands commute with a change of shard memory. -/
theorem otherCommandsIgnoreShardMemory : Obligations.OtherCommandsIgnoreShardMemory := by
  intro i s t m n h1 h2 h3 h
  rw [exec_eq_complete] at h
  have hrule := ruleOf_withShards s m n h1 h2 h3
  change exec i (s.withShards m n) = .next (t.withShards m n)
  rw [exec_eq_complete, hrule]
  exact complete_withShards m n h

/-- Settles O32: CONFIGURE's range check, and the commit of the coding matrix it finds. -/
theorem configureCommitsOrReports : Obligations.ConfigureCommitsOrReports := by
  refine ⟨rfl, fun s => ⟨fun hbad => ?_, fun hd hp hn x hx => ?_⟩⟩
  · have hrule : configureRule s = raise .invalidShardConfiguration 0 := if_pos hbad
    rw [exec_eq_complete, ruleOf, hrule]
    rfl
  · have hgood : ¬(s.cfgD.toNat = 0 ∨ s.cfgP.toNat = 0 ∨ s.cfgD.toNat + s.cfgP.toNat > maxTotal) := by
      unfold maxTotal; omega
    have hrule : configureRule s = .ok (s.setConfig s.cfgD.toNat s.cfgP.toNat x) := by
      rw [configureRule, if_neg hgood, hx]
    rw [exec_eq_complete, ruleOf, hrule, setConfig_toNat]
    rfl

end

section
/-! SUPPORT. The address map read backwards, and what each location reads. -/

namespace Sys2Proof.Machine

open Sys2Proof.Claims

/-! ### The address map -/

/-- The map has the location: a word of shard memory only inside SHMEM, at a multiple of 4 (20 R101, R102). -/
def Loc.placed (size : Nat) : Loc → Prop
  | .shmem a => a % 4 = 0 ∧ a < size ∧ a < 0x1000000
  | _ => True

/-- Past the single registers an offset is an array's word, if an array has it (20 R101). -/
theorem locate_of_array {o size : Nat} {l : Loc} (h4 : o % 4 = 0) (h : 0x68 ≤ o) (hl : locateArray o = some l) :
    locate size o = some l := by
  rw [locate, if_neg (by omega), if_neg (by omega), hl]

/-- Past the arrays it is a window's word (20 R101). -/
theorem locate_of_window {o size : Nat} {l : Loc} (h4 : o % 4 = 0) (h : 0x1C00 ≤ o)
    (hl : locateWindow size o = some l) : locate size o = some l := by
  have hnone : locateArray o = none := by
    unfold locateArray
    simp (disch := omega) only [dif_neg]
  rw [locate, if_neg (by omega), if_neg (by omega), hnone, hl]

/-- The words of the arrays lie at their offsets (20 R101). -/
theorem locateArray_offset {l : Loc} {o : Nat} (ho : l.offset = o) (hl : 0x68 ≤ o) (hu : o < 0x1C00) :
    locateArray o = some l := by
  unfold locateArray
  cases l with
  | matDim i | present i | logWord i | expWord i | idxR i | idxC i | shardAddr i | shardLen i =>
    have hi := i.isLt
    simp only [Loc.offset] at ho
    simp (disch := omega) only [dif_pos, dif_neg, if_pos, if_neg]
    exact congrArg some (congrArg _ (Fin.ext (by simp only; omega)))
  | _ => simp only [Loc.offset] at ho; omega

/-- The words of the windows lie at their offsets (20 R101). -/
theorem locateWindow_offset {size o : Nat} {l : Loc} (hl : l.placed size) (ho : l.offset = o) (hu : 0x1C00 ≤ o) :
    locateWindow size o = some l := by
  unfold locateWindow
  cases l with
  | cmWord r w =>
    have hr := r.isLt
    have hw := w.isLt
    simp only [Loc.offset] at ho
    rw [dif_pos (by omega)]
    exact congrArg some (congrArg₂ _ (Fin.ext (by simp only; omega)) (Fin.ext (by simp only; omega)))
  | matWord m r w =>
    have hm := m.isLt
    have hr := r.isLt
    have hw := w.isLt
    simp only [Loc.offset] at ho
    rw [dif_neg (by omega), dif_pos (by omega)]
    simp only [Option.some.injEq, Loc.matWord.injEq, Fin.ext_iff]
    omega
  | shmem a =>
    obtain ⟨ha4, ha, hs⟩ := hl
    simp only [Loc.offset] at ho
    rw [dif_neg (by omega), dif_neg (by omega), if_pos (by omega)]
    exact congrArg (some ∘ Loc.shmem) (by omega)
  | matDim i | present i | logWord i | expWord i | idxR i | idxC i | shardAddr i | shardLen i =>
    have hi := i.isLt
    simp only [Loc.offset] at ho; omega
  | _ => simp only [Loc.offset] at ho; omega

/-- A location of the map lies at a multiple of 4 (20 R102). -/
theorem offset_mod_four {size : Nat} {l : Loc} (hl : l.placed size) : l.offset % 4 = 0 := by
  cases l with
  | shmem a =>
    obtain ⟨ha4, -, -⟩ := hl
    simp only [Loc.offset]; omega
  | matDim | present | logWord | expWord | idxR | idxC | shardAddr | shardLen | cmWord | matWord =>
    simp only [Loc.offset]; omega
  | _ => rfl

/-- Each location of the map lies at its offset (20 R101). -/
theorem locate_offset {size : Nat} {l : Loc} (hl : l.placed size) : locate size l.offset = some l := by
  have h4 := offset_mod_four hl
  obtain hu | hu := Nat.lt_or_ge l.offset 0x1C00
  · obtain h | h := Nat.lt_or_ge l.offset 0x68
    · cases l with
      | matDim | present | logWord | expWord | idxR | idxC | shardAddr | shardLen | cmWord | matWord | shmem =>
        simp only [Loc.offset] at h; omega
      | _ => rfl
    · exact locate_of_array h4 h (locateArray_offset rfl h hu)
  · exact locate_of_window h4 hu (locateWindow_offset hl rfl hu)

/-! ### Reads -/

/-- A read of an open location of the map completes with the location's value (20 R103-R109). -/
theorem reads_offset {s : State} {v : Word} (l : Loc) (hl : l.placed s.shmemSize)
    (ho : s.busy = true → openWhileBusy false l = true) (hv : s.readLoc l = some v) : reads s l.offset v := by
  have hr : reachedLoc s false 32 l.offset = .ok l := by
    have hopen : (s.busy && !openWhileBusy false l) = false := by
      cases hb : s.busy with
      | false => rfl
      | true => simp [ho hb]
    simp [reachedLoc, offset_mod_four hl, locate_offset hl, hopen]
  simp only [reads, hostRead, hr, hv]
  rfl

/-- STATUS bit by bit (10 R33). -/
theorem getLsbD_statusWord (s : State) :
    s.statusWord.getLsbD 0 = s.busy ∧ s.statusWord.getLsbD 1 = s.done ∧ s.statusWord.getLsbD 2 = s.err ∧
    s.statusWord.getLsbD 3 = s.configured ∧ s.statusWord.getLsbD 4 = s.verifyOk ∧
    ∀ k, 5 ≤ k → s.statusWord.getLsbD k = false := by
  simp only [State.statusWord, BitVec.getLsbD_setWidth]
  refine ⟨?_, ?_, ?_, ?_, ?_, fun k hk => ?_⟩
  case refine_6 => rw [BitVec.getLsbD_of_ge _ _ hk, Bool.and_false]
  all_goals simp only [BitVec.getLsbD_append, BitVec.getLsbD_ofBool]; rfl

/-- A flag register reads 1 or 0 (10 R45, R46). -/
theorem flagWord_eq (b : Bool) : flagWord b = if b then 1#32 else 0#32 := by cases b <;> rfl

/-- MAT_DIM as a number: COLS in the high half, ROWS in the low (10 R61). -/
theorem toNat_matDim {r c : Nat} (hr : r < 0x10000) (hc : c < 0x10000) :
    (BitVec.ofNat 16 c ++ BitVec.ofNat 16 r).toNat = c * 0x10000 + r := by
  rw [BitVec.toNat_append, BitVec.toNat_ofNat, BitVec.toNat_ofNat, Nat.mod_eq_of_lt hr, Nat.mod_eq_of_lt hc,
    ← Nat.shiftLeft_add_eq_or_of_lt hr, Nat.shiftLeft_eq]

/-- A word of PRESENT holds 32 slots' bits (10 R53). -/
theorem getLsbD_presentWord (p : BitVec 256) (w : Nat) {b : Nat} (hb : b < 32) :
    (p.extractLsb' (32 * w) 32).getLsbD b = p.getLsbD (32 * w + b) := by
  rw [BitVec.getLsbD_extractLsb', decide_eq_true hb, Bool.true_and]

/-- An entry of the LOG table is `LOG` of its index (41 R251). -/
theorem getD_logTable {k : Nat} (hk : k < 256) : logTable.getD k 0#8 = BitVec.ofNat 8 (logAt (BitVec.ofNat 8 k)) := by
  rw [logAt, BitVec.ofNat_toNat, BitVec.setWidth_eq, BitVec.toNat_ofNat, Nat.mod_eq_of_lt hk]

end Sys2Proof.Machine

open Sys2Proof Sys2Proof.Machine Sys2Proof.Claims

/-- Settles O53: each register lies at its offset, is open there, and reads its field. -/
theorem registersReadTheirFields : Obligations.RegistersReadTheirFields := by
  intro s
  have opened {v : Word} (l : Loc) (hl : l.placed s.shmemSize) (ho : openWhileBusy false l = true)
      (hv : s.readLoc l = some v) : reads s l.offset v := reads_offset l hl (fun _ => ho) hv
  refine ⟨opened .id trivial rfl rfl, opened .version trivial rfl rfl, opened .shmemSizeReg trivial rfl rfl,
    ⟨_, opened .status trivial rfl rfl, getLsbD_statusWord s⟩, opened .cmd trivial rfl rfl,
    opened .errCode trivial rfl rfl, opened .errInfo trivial rfl rfl, ?_, ?_, fun hb => ?_⟩
  · exact flagWord_eq s.doneIe ▸ opened .intEnable trivial rfl rfl
  · exact flagWord_eq s.doneIp ▸ opened .intStatus trivial rfl rfl
  have idle {v : Word} (l : Loc) (hl : l.placed s.shmemSize) (hv : s.readLoc l = some v) : reads s l.offset v :=
    reads_offset l hl (by simp [hb]) hv
  refine ⟨idle .cfgD trivial rfl, idle .cfgP trivial rfl, idle .nData trivial rfl, idle .nParity trivial rfl,
    idle .nTotal trivial rfl, idle .shardCount trivial rfl, idle .hint trivial rfl, idle .winStart trivial rfl,
    idle .winCount trivial rfl, idle .byteCount trivial rfl, idle .presentCount trivial rfl, idle .aluA trivial rfl,
    idle .aluB trivial rfl, idle .aluN trivial rfl, idle .aluR trivial rfl, idle .matArgRows trivial rfl,
    idle .matArgCols trivial rfl, fun m hr hc => ⟨_, idle (.matDim m) trivial rfl, toNat_matDim hr hc⟩,
    fun w => ⟨_, idle (.present w) trivial rfl, fun b hb => getLsbD_presentWord _ _ hb⟩,
    fun w => ⟨_, idle (.logWord w) trivial rfl, fun b hb => ?_⟩,
    fun w => ⟨_, idle (.expWord w) trivial rfl, fun b hb => laneOf_packLanes _ b hb⟩,
    idle (.logWord 0) trivial rfl, idle (.expWord 0) trivial rfl, idle (.expWord 63) trivial rfl,
    fun i => ⟨idle (.shardAddr i) trivial rfl, idle (.shardLen i) trivial rfl, idle (.idxR i) trivial rfl⟩,
    fun j => idle (.idxC j) trivial rfl⟩
  exact (laneOf_packLanes _ b hb).trans (getD_logTable (by omega))

end

section
/-! SUPPORT. The address map as an equivalence, when a host access completes, and what a write of a location does. -/

namespace Sys2Proof.Machine

open Sys2Proof.Claims

/-! ### The address map -/

/-- A single register lies at its place in the list of registers (20 R101). -/
theorem offset_registerLocs {k : Nat} {l : Loc} (h : registerLocs[k]? = some l) : l.offset = 4 * k := by
  obtain ⟨hk, rfl⟩ := List.getElem?_eq_some_iff.1 h
  exact (by decide : ∀ j : Fin 26, (registerLocs.get j).offset = 4 * j.val) ⟨k, hk⟩

/-- Only words of SHMEM can be missing from the map (20 R102). -/
theorem placed_of_offset_lt {size : Nat} {l : Loc} (h : l.offset < 0x1000000) : l.placed size := by
  cases l with
  | shmem a => simp only [Loc.offset] at h; omega
  | _ => trivial

/-- An array's word lies at the offset that locates it (20 R101). -/
theorem offset_of_locateArray {size o : Nat} {l : Loc} (h4 : o % 4 = 0) (h : locateArray o = some l) :
    l.placed size ∧ l.offset = o := by
  unfold locateArray at h
  split_ifs at h
  all_goals
    obtain rfl := Option.some.inj h
    refine ⟨trivial, ?_⟩
    simp only [Loc.offset]
    omega

/-- A window's word lies at the offset that locates it, and the map has it (20 R101, R102). -/
theorem offset_of_locateWindow {size o : Nat} {l : Loc} (h4 : o % 4 = 0) (h : locateWindow size o = some l) :
    l.placed size ∧ l.offset = o := by
  unfold locateWindow at h
  split_ifs at h
  all_goals
    obtain rfl := Option.some.inj h
    simp only [Loc.placed, Loc.offset, true_and]
    omega

/-- The map takes an offset to the location that lies there (20 R101, R102). -/
theorem locate_eq_some_iff {size o : Nat} {l : Loc} : locate size o = some l ↔ l.placed size ∧ l.offset = o := by
  refine ⟨fun h => ?_, fun ⟨hl, ho⟩ => ho ▸ locate_offset hl⟩
  unfold locate at h
  split_ifs at h with h4 hreg
  · have ho := offset_registerLocs h
    exact ⟨placed_of_offset_lt (by omega), by omega⟩
  · split at h
    case h_1 ha => exact offset_of_locateArray (by omega) (Option.some.inj h ▸ ha)
    case h_2 => exact offset_of_locateWindow (by omega) h

/-- A location of the map lies at a mapped offset (20 R101, R102). -/
theorem mapped_offset {s : State} {l : Loc} (hl : l.placed s.shmemSize) : mapped s l.offset := by
  cases l with
  | shmem a =>
    obtain ⟨-, ha, hw⟩ := hl
    simp only [mapped, Loc.offset]; omega
  | matDim i | present i | logWord i | expWord i | shardAddr i | shardLen i | idxR i | idxC i =>
    have hi := i.isLt
    simp only [mapped, Loc.offset]; omega
  | cmWord r w =>
    have hr := r.isLt
    have hw := w.isLt
    simp only [mapped, Loc.offset]; omega
  | matWord m r w =>
    have hm := m.isLt
    have hr := r.isLt
    have hw := w.isLt
    simp only [mapped, Loc.offset]; omega
  | _ => exact .inl (by simp only [Loc.offset]; omega)

/-- At each mapped offset that is a multiple of 4 lies a location of the map (20 R101, R102). -/
theorem exists_loc_of_mapped {s : State} {o : Nat} (h4 : o % 4 = 0) (hm : mapped s o) :
    ∃ l : Loc, l.placed s.shmemSize ∧ l.offset = o := by
  obtain h | h | h | h | h | h | h | h := hm
  · have hk : o / 4 < registerLocs.length := by change o / 4 < 26; omega
    have ho := offset_registerLocs (List.getElem?_eq_getElem hk)
    exact ⟨registerLocs[o / 4], placed_of_offset_lt (by omega), by omega⟩
  · exact ⟨.matDim ⟨(o - 0x0070) / 4, by omega⟩, trivial, by simp only [Loc.offset]; omega⟩
  · exact ⟨.present ⟨(o - 0x0100) / 4, by omega⟩, trivial, by simp only [Loc.offset]; omega⟩
  · obtain hlog | hexp := Nat.lt_or_ge o 0x0500
    · exact ⟨.logWord ⟨(o - 0x0400) / 4, by omega⟩, trivial, by simp only [Loc.offset]; omega⟩
    · exact ⟨.expWord ⟨(o - 0x0500) / 4, by omega⟩, trivial, by simp only [Loc.offset]; omega⟩
  · obtain hshard | hidx := Nat.lt_or_ge o 0x1000
    · obtain h8 | h8 : o % 8 = 0 ∨ o % 8 = 4 := by omega
      · exact ⟨.shardAddr ⟨(o - 0x0800) / 8, by omega⟩, trivial, by simp only [Loc.offset]; omega⟩
      · exact ⟨.shardLen ⟨(o - 0x0800) / 8, by omega⟩, trivial, by simp only [Loc.offset]; omega⟩
    · obtain hr | hc := Nat.lt_or_ge o 0x1400
      · exact ⟨.idxR ⟨(o - 0x1000) / 4, by omega⟩, trivial, by simp only [Loc.offset]; omega⟩
      · exact ⟨.idxC ⟨(o - 0x1400) / 4, by omega⟩, trivial, by simp only [Loc.offset]; omega⟩
  · exact ⟨.cmWord ⟨(o - 0x10000) / 0x100, by omega⟩ ⟨(o - 0x10000) % 0x100 / 4, by omega⟩, trivial,
      by simp only [Loc.offset]; omega⟩
  · exact ⟨.matWord ⟨(o - 0x100000) / 0x20000, by omega⟩ ⟨(o - 0x100000) % 0x20000 / 0x200, by omega⟩
      ⟨(o - 0x100000) % 0x200 / 4, by omega⟩, trivial, by simp only [Loc.offset]; omega⟩
  · exact ⟨.shmem (o - 0x1000000), ⟨by omega, by omega, by omega⟩, by simp only [Loc.offset]; omega⟩

/-! ### When a host access completes -/

/-- The location is held: a word of a matrix window or of the CM window is one the matrix covers, and any other
location always is (20 R111). -/
def State.holds (s : State) : Loc → Prop
  | .cmWord r w => r.val < s.nTotal.toNat ∧ 4 * w.val < s.nData.toNat
  | .matWord m r w => r.val < (s.mat m).rows ∧ 4 * w.val < (s.mat m).cols
  | _ => True

/-- The word rule as a proposition (20 R111). -/
theorem wordInside_eq_true_iff {rows cols r w : Nat} : wordInside rows cols r w = true ↔ r < rows ∧ 4 * w < cols := by
  simp only [wordInside, Bool.and_eq_true, decide_eq_true_eq]

/-- A location has a value to read unless it is a word outside its matrix (20 R111). -/
theorem exists_readLoc_iff {s : State} {l : Loc} : (∃ v, s.readLoc l = some v) ↔ s.holds l := by
  cases l with
  | cmWord | matWord =>
    simp only [State.readLoc, Option.ite_none_right_eq_some, Option.some.injEq, exists_and_left, exists_eq', and_true,
      wordInside_eq_true_iff, State.holds]
  | _ => exact iff_of_true ⟨_, rfl⟩ trivial

/-- A location takes a write unless it is a word outside its matrix (20 R111). -/
theorem exists_writeLoc_iff {s : State} {l : Loc} {v : Word} : (∃ t, s.writeLoc v l = some t) ↔ s.holds l := by
  cases l with
  | cmWord | matWord =>
    simp only [State.writeLoc, Option.ite_none_right_eq_some, Option.some.injEq, exists_and_left, exists_eq', and_true,
      wordInside_eq_true_iff, State.holds]
  | _ => exact iff_of_true ⟨_, rfl⟩ trivial

/-- An access reaches the location at its offset, where that is open (20 R101-R106). -/
theorem reachedLoc_eq_ok_iff {s : State} {wr : Bool} {bits o : Nat} {l : Loc} :
    reachedLoc s wr bits o = .ok l ↔
      bits = 32 ∧ (l.placed s.shmemSize ∧ l.offset = o) ∧ (s.busy = true → openWhileBusy wr l = true) := by
  refine ⟨fun h => ?_, fun ⟨hbits, ⟨hl, ho⟩, hopen⟩ => ?_⟩
  · obtain ⟨hbits, -, hl, hopen⟩ := reachedLoc_ok h
    exact ⟨hbits, locate_eq_some_iff.1 hl, hopen⟩
  · have hshut : (s.busy && !openWhileBusy wr l) = false := by
      simpa only [Bool.and_eq_false_imp, Bool.not_eq_false'] using hopen
    subst hbits ho
    simp [reachedLoc, offset_mod_four hl, locate_offset hl, hshut]

/-- A read that does not complete gets a bus error at its offset (20 R105). -/
theorem hostRead_faults_iff {s : State} {bits o : Nat} :
    (∃ c, hostRead bits o s = .fault (.busError c o)) ↔ ¬ ∃ t, hostRead bits o s = .next t := by
  unfold hostRead
  split
  · simp
  · split <;> simp

/-- A write that does not complete gets a bus error at its offset (20 R105). -/
theorem hostWrite_faults_iff {s : State} {bits o : Nat} {v : Word} :
    (∃ c, hostWrite bits o v s = .fault (.busError c o)) ↔ ¬ ∃ t, hostWrite bits o v s = .next t := by
  unfold hostWrite
  split
  · simp
  · split <;> simp

/-- A read that reaches a location with a value completes with it (20 R103, R109). -/
theorem hostRead_of_readLoc {s : State} {bits o : Nat} {l : Loc} {v : Word}
    (hr : reachedLoc s false bits o = .ok l) (hv : s.readLoc l = some v) :
    hostRead bits o s = .next (answered s (.data v)) := by
  simp only [hostRead, hr, hv]
  rfl

/-- A write that reaches a location that takes it completes (20 R103). -/
theorem hostWrite_of_writeLoc {s t : State} {bits o : Nat} {l : Loc} {v : Word}
    (hr : reachedLoc s true bits o = .ok l) (hv : s.writeLoc v l = some t) :
    hostWrite bits o v s = .next (answered t .done) := by
  simp only [hostWrite, hr, hv]
  rfl

/-- A read completes iff it reaches a location that is not outside its matrix (20 R103-R111). -/
theorem hostRead_completes_iff {s : State} {bits o : Nat} :
    (∃ t, hostRead bits o s = .next t) ↔ ∃ l, reachedLoc s false bits o = .ok l ∧ s.holds l := by
  refine ⟨fun ⟨t, h⟩ => ?_, fun ⟨l, hr, hl⟩ => ?_⟩
  · obtain ⟨l, v, hr, hv, -⟩ := hostRead_next h
    exact ⟨l, hr, exists_readLoc_iff.1 ⟨v, hv⟩⟩
  · obtain ⟨v, hv⟩ := exists_readLoc_iff.2 hl
    exact ⟨_, hostRead_of_readLoc hr hv⟩

/-- A write completes iff it reaches a location that is not outside its matrix (20 R103-R111). -/
theorem hostWrite_completes_iff {s : State} {bits o : Nat} {v : Word} :
    (∃ t, hostWrite bits o v s = .next t) ↔ ∃ l, reachedLoc s true bits o = .ok l ∧ s.holds l := by
  refine ⟨fun ⟨t, h⟩ => ?_, fun ⟨l, hr, hl⟩ => ?_⟩
  · obtain ⟨l, u, hr, hu, -⟩ := hostWrite_next h
    exact ⟨l, hr, exists_writeLoc_iff.1 ⟨u, hu⟩⟩
  · obtain ⟨u, hu⟩ := exists_writeLoc_iff.2 hl
    exact ⟨_, hostWrite_of_writeLoc hr hu⟩

/-- The locations that may be read while BUSY = 1 (20 R106). -/
theorem openWhileBusy_read_iff (l : Loc) : openWhileBusy false l = true ↔ l.offset ≤ 0x0020 := by
  cases l with
  | matDim | present | logWord | expWord | shardAddr | shardLen | idxR | idxC | cmWord | matWord | shmem =>
    exact iff_of_false Bool.false_ne_true (by simp only [Loc.offset]; omega)
  | _ => simp [openWhileBusy, Loc.offset]

/-- The locations that may be written while BUSY = 1: INT_ENABLE and INT_STATUS (20 R106). -/
theorem openWhileBusy_write_iff (l : Loc) : openWhileBusy true l = true ↔ l.offset = 0x001C ∨ l.offset = 0x0020 := by
  cases l with
  | matDim | present | logWord | expWord | shardAddr | shardLen | idxR | idxC | cmWord | matWord | shmem =>
    exact iff_of_false Bool.false_ne_true (by simp only [Loc.offset]; omega)
  | _ => simp [openWhileBusy, Loc.offset]

/-- No offset outside the CM window and the matrix windows is a word outside its matrix (20 R101, R111). -/
theorem not_outside_of_offset {s : State} {o : Nat} (h : o < 0x10000 ∨ 0x180000 ≤ o) :
    ¬ outsideCm s o ∧ ¬ outsideMat s o :=
  ⟨fun ⟨_, _, _⟩ => by omega, fun ⟨m, _, _, _⟩ => by omega⟩

/-- A location is held unless its offset is a word outside CM or outside its matrix register (20 R111). -/
theorem holds_iff {s : State} {l : Loc} :
    s.holds l ↔ ¬ outsideCm s l.offset ∧ ¬ outsideMat s l.offset := by
  cases l with
  | cmWord r w =>
    have hr := r.isLt
    have hw := w.isLt
    have hmat : ¬ outsideMat s (Loc.cmWord r w).offset := fun ⟨m, hm, _⟩ => by simp only [Loc.offset] at hm; omega
    rw [and_iff_left hmat]
    simp only [State.holds, outsideCm, Loc.offset]
    omega
  | matWord m r w =>
    have hm := m.isLt
    have hr := r.isLt
    have hw := w.isLt
    have hcm : ¬ outsideCm s (Loc.matWord m r w).offset := by simp only [outsideCm, Loc.offset]; omega
    rw [and_iff_right hcm]
    simp only [State.holds, outsideMat, Loc.offset]
    refine ⟨fun hin ⟨k, hlo, hhi, hout⟩ => ?_, fun h => ?_⟩
    · obtain rfl : k = m := Fin.ext (by omega)
      omega
    · by_contra hout
      exact h ⟨m, by omega, by omega, by omega⟩
  | matDim i | present i | logWord i | expWord i | shardAddr i | shardLen i | idxR i | idxC i =>
    have hi := i.isLt
    exact iff_of_true trivial (not_outside_of_offset (by simp only [Loc.offset]; omega))
  | _ => exact iff_of_true trivial (not_outside_of_offset (by simp only [Loc.offset]; omega))

/-- A bus error is due iff the access reaches no location or one outside its matrix (60 R508). -/
theorem not_busErrorDue_iff {s : State} {wr : Bool} {opened : Prop} {bits o : Nat}
    (hopen : ∀ l : Loc, l.offset = o → (openWhileBusy wr l = true ↔ opened)) :
    ¬ busErrorDue s opened bits o ↔ ∃ l, reachedLoc s wr bits o = .ok l ∧ s.holds l := by
  simp only [reachedLoc_eq_ok_iff]
  refine ⟨fun h => ?_, fun ⟨l, ⟨hbits, ⟨hl, ho⟩, hb⟩, hin⟩ => ?_⟩
  · obtain ⟨hbits, h⟩ := not_or.1 h
    obtain ⟨h4, h⟩ := not_or.1 h
    obtain ⟨hm, h⟩ := not_or.1 h
    obtain ⟨hb, hin⟩ := not_or.1 h
    obtain ⟨l, hl, rfl⟩ := exists_loc_of_mapped (not_not.1 h4) (not_not.1 hm)
    refine ⟨l, ⟨not_not.1 hbits, ⟨hl, rfl⟩, fun hbusy => ?_⟩, holds_iff.2 (not_or.1 hin)⟩
    exact (hopen l rfl).2 (not_not.1 fun hshut => hb ⟨hbusy, hshut⟩)
  · subst hbits ho
    obtain ⟨hcm, hmat⟩ := holds_iff.1 hin
    rintro (h | h | h | ⟨hbusy, hshut⟩ | h | h)
    · exact h rfl
    · exact h (offset_mod_four hl)
    · exact h (mapped_offset hl)
    · exact hshut ((hopen l rfl).1 (hb hbusy))
    · exact hcm h
    · exact hmat h

end Sys2Proof.Machine

open Sys2Proof Sys2Proof.Machine Sys2Proof.Claims

/-- Settles O49: a bus error is due exactly where the access reaches no open location, or one outside its matrix. -/
theorem busErrorsAndNothingElseFault : Obligations.BusErrorsAndNothingElseFault := by
  intro s bits o v
  have hread := (not_busErrorDue_iff (s := s) (bits := bits) fun l (ho : l.offset = o) =>
    ho ▸ openWhileBusy_read_iff l).trans hostRead_completes_iff.symm
  have hwrite := (not_busErrorDue_iff (s := s) (bits := bits) fun l (ho : l.offset = o) =>
    ho ▸ openWhileBusy_write_iff l).trans (hostWrite_completes_iff (v := v)).symm
  refine ⟨hostRead_faults_iff.trans (not_iff_comm.1 hread), hostWrite_faults_iff.trans (not_iff_comm.1 hwrite),
    hread.1, hwrite.1, fun a c k h => ?_⟩
  simp only [hostAttempt, h]
  rfl

end

section
/-! SUPPORT. What a host access finds with BUSY = 0, and what a write of a location changes. -/

namespace Sys2Proof.Machine

open Sys2Proof.Claims

/-! ### Accesses with BUSY = 0 -/

/-- What the host remembers is no part of what a location reads (20 R109). -/
@[simp] theorem readLoc_answered (s : State) (r : Response) (l : Loc) : (answered s r).readLoc l = s.readLoc l := by
  cases l <;> rfl

/-- With BUSY = 0 a 32-bit access at a location's offset reaches it (20 R106). -/
theorem reachedLoc_idle {s : State} {l : Loc} (wr : Bool) (hb : s.busy = false) (hl : l.placed s.shmemSize) :
    reachedLoc s wr 32 l.offset = .ok l :=
  reachedLoc_eq_ok_iff.2 ⟨rfl, ⟨hl, rfl⟩, by simp [hb]⟩

/-- With BUSY = 0 a read has the location's value (20 R103, R109). -/
theorem reads_offset_idle {s : State} {l : Loc} {v : Word} (hb : s.busy = false) (hl : l.placed s.shmemSize)
    (hv : s.readLoc l = some v) : reads s l.offset v :=
  reads_offset l hl (by simp [hb]) hv

/-- With BUSY = 0 a write does to the location what its rule says (20 R103). -/
theorem hostWrite_offset_idle {s t : State} {l : Loc} {v : Word} (hb : s.busy = false) (hl : l.placed s.shmemSize)
    (ht : s.writeLoc v l = some t) : hostWrite 32 l.offset v s = .next (answered t .done) :=
  hostWrite_of_writeLoc (reachedLoc_idle true hb hl) ht

/-- With BUSY = 0 a read of a word outside its matrix gets that bus error (20 R111). -/
theorem hostRead_outOfMatrix {s : State} {l : Loc} (hb : s.busy = false) (hl : l.placed s.shmemSize)
    (hout : ¬ s.holds l) : hostRead 32 l.offset s = .fault (.busError .outOfMatrix l.offset) := by
  have hnone : s.readLoc l = none :=
    Option.eq_none_iff_forall_ne_some.2 fun v hv => hout (exists_readLoc_iff.1 ⟨v, hv⟩)
  simp only [hostRead, reachedLoc_idle false hb hl, hnone]

/-- With BUSY = 0 a write of a word outside its matrix gets that bus error (20 R111). -/
theorem hostWrite_outOfMatrix {s : State} {l : Loc} (v : Word) (hb : s.busy = false) (hl : l.placed s.shmemSize)
    (hout : ¬ s.holds l) : hostWrite 32 l.offset v s = .fault (.busError .outOfMatrix l.offset) := by
  have hnone : s.writeLoc v l = none :=
    Option.eq_none_iff_forall_ne_some.2 fun t ht => hout (exists_writeLoc_iff.1 ⟨t, ht⟩)
  simp only [hostWrite, reachedLoc_idle true hb hl, hnone]

/-- A read that completes has the value of a location of the map (20 R103-R109). -/
theorem exists_loc_of_reads {s : State} {o : Nat} {v : Word} (h : reads s o v) :
    ∃ l : Loc, l.placed s.shmemSize ∧ l.offset = o ∧ s.readLoc l = some v := by
  obtain ⟨l, u, hr, hu, ht⟩ := hostRead_next h
  obtain ⟨-, ⟨hl, ho⟩, -⟩ := reachedLoc_eq_ok_iff.1 hr
  obtain rfl : v = u := Response.data.inj (congrArg (·.host.response) ht)
  exact ⟨l, hl, ho, hu⟩

/-! ### Read-only locations -/

/-- The read-only offsets are mapped words (20 R101, R107). -/
theorem mapped_of_readOnlyOffset {s : State} {o : Nat} (h : readOnlyOffset o) : o % 4 = 0 ∧ mapped s o := by
  simp only [readOnlyOffset, List.mem_cons, List.not_mem_nil, or_false] at h
  simp only [mapped]
  omega

/-- A write of a read-only location leaves the state (20 R107). -/
theorem writeLoc_of_readOnlyOffset {l : Loc} (s : State) (v : Word) (h : readOnlyOffset l.offset) :
    s.writeLoc v l = some s := by
  cases l with
  | id | version | shmemSizeReg | status | errCode | errInfo | nData | nParity | nTotal | byteCount | presentCount
  | aluR | matDim | logWord | expWord => rfl
  | present i | shardAddr i | shardLen i =>
    have hi := i.isLt
    simp only [readOnlyOffset, Loc.offset, List.mem_cons, List.not_mem_nil, or_false] at h
    omega
  | idxR | idxC | cmWord | matWord | shmem =>
    simp only [readOnlyOffset, Loc.offset, List.mem_cons, List.not_mem_nil, or_false] at h
    omega
  | _ => exact absurd h (by decide)

/-- A write of a word of the CM window inside CM leaves the state (20 R107, R111). -/
theorem writeLoc_cmWord {s : State} {r : Fin 256} {w : Fin 64} (v : Word) (h : s.holds (.cmWord r w)) :
    s.writeLoc v (.cmWord r w) = some s := if_pos (wordInside_eq_true_iff.2 h)

/-! ### Read-write registers -/

/-- The implemented bits of a read-write register (20 R108, 10 R42-R60). -/
def Loc.bits : Loc → Option Word
  | .cmd | .cfgD | .cfgP | .shardCount | .hint | .winStart | .winCount | .aluN | .present _ | .shardAddr _
  | .shardLen _ => some 0xFFFFFFFF#32
  | .intEnable => some 0x00000001#32
  | .aluA | .aluB => some 0x000000FF#32
  | .matArgRows | .matArgCols | .idxR _ | .idxC _ => some 0x0000FFFF#32
  | _ => none

/-- Past the single registers the table of implemented bits has the arrays alone (10 R53, R54, R60). -/
theorem implementedBits_of_ge {o : Nat} (h : 0x68 ≤ o) :
    implementedBits o =
      if o % 4 = 0 ∧ ((0x0100 ≤ o ∧ o < 0x0120) ∨ (0x0800 ≤ o ∧ o < 0x1000)) then some 0xFFFFFFFF#32
      else if o % 4 = 0 ∧ 0x1000 ≤ o ∧ o < 0x1C00 then some 0x0000FFFF#32
      else none := by
  have hout {ks : List Nat} (hks : ∀ k ∈ ks, k < 0x68) : o ∉ ks := fun ho => absurd (hks o ho) (by omega)
  rw [implementedBits, if_neg (hout (by decide)), if_neg (by omega), if_neg (hout (by decide)),
    if_neg (hout (by decide))]

/-- They are those the statements' table has at the register's offset. -/
theorem implementedBits_offset (l : Loc) : implementedBits l.offset = l.bits := by
  cases l with
  | present i | shardAddr i | shardLen i =>
    have hi := i.isLt
    rw [implementedBits_of_ge (by simp only [Loc.offset]; omega), if_pos (by simp only [Loc.offset]; omega)]
    rfl
  | idxR i | idxC i =>
    have hi := i.isLt
    rw [implementedBits_of_ge (by simp only [Loc.offset]; omega), if_neg (by simp only [Loc.offset]; omega),
      if_pos (by simp only [Loc.offset]; omega)]
    rfl
  | matDim i | logWord i | expWord i =>
    have hi := i.isLt
    rw [implementedBits_of_ge (by simp only [Loc.offset]; omega), if_neg (by simp only [Loc.offset]; omega),
      if_neg (by simp only [Loc.offset]; omega)]
    rfl
  | cmWord | matWord | shmem =>
    rw [implementedBits_of_ge (by simp only [Loc.offset]; omega), if_neg (by simp only [Loc.offset]; omega),
      if_neg (by simp only [Loc.offset]; omega)]
    rfl
  | _ => rfl

/-- The read-write registers are mapped words (20 R101, R108). -/
theorem mapped_of_implementedBits {s : State} {o : Nat} {bits : Word} (h : implementedBits o = some bits) :
    o % 4 = 0 ∧ mapped s o := by
  obtain hreg | harr := Nat.lt_or_ge o 0x68
  · have hwords : ∀ k < 0x68, implementedBits k ≠ none → k % 4 = 0 := by decide
    exact ⟨hwords o hreg (by simp [h]), .inl hreg⟩
  · rw [implementedBits_of_ge harr] at h
    split_ifs at h
    all_goals
      simp only [mapped]
      omega

/-- A register of `k` bits keeps the low `k` bits of the word (20 R108). -/
theorem setWidth_setWidth_word {k : Nat} (hk : k ≤ 32) (v : Word) :
    (v.setWidth k).setWidth 32 = v &&& BitVec.ofNat 32 (2 ^ k - 1) := by
  have hpow : 2 ^ k ≤ 2 ^ 32 := Nat.pow_le_pow_right (by decide) hk
  have hfit : (BitVec.ofNat 32 (2 ^ k - 1)).toNat = 2 ^ k - 1 := by
    rw [BitVec.toNat_ofNat, Nat.mod_eq_of_lt (by omega)]
  have hlt : v.toNat % 2 ^ k < 2 ^ k := Nat.mod_lt _ (by positivity)
  apply BitVec.eq_of_toNat_eq
  rw [BitVec.toNat_and, hfit, Nat.and_two_pow_sub_one_eq_mod, BitVec.toNat_setWidth, BitVec.toNat_setWidth,
    Nat.mod_eq_of_lt (by omega)]

/-- A register of 32 bits keeps the word (20 R108). -/
theorem and_fullWord (v : Word) : v &&& 0xFFFFFFFF#32 = v := BitVec.and_allOnes

/-- A flag register keeps bit 0 of the word (10 R45, 20 R108). -/
theorem flagWord_getLsbD_zero (v : Word) : flagWord (v.getLsbD 0) = v &&& 0x00000001#32 := by
  have hflag : BitVec.ofBool (v.getLsbD 0) = v.setWidth 1 := by
    ext i hi
    obtain rfl : i = 0 := by omega
    simp
  rw [flagWord, hflag]
  exact setWidth_setWidth_word (by decide) v

/-- A word of PRESENT after a write of a word of PRESENT (10 R53). -/
theorem presentWord_setPresentWord (p : BitVec 256) (v : Word) (i j : Fin 8) :
    (setPresentWord p i.val v).extractLsb' (32 * j.val) 32 =
      if j = i then v else p.extractLsb' (32 * j.val) 32 := by
  apply BitVec.eq_of_getLsbD_eq
  intro b hb
  rw [getLsbD_presentWord _ _ hb, getLsbD_setPresentWord _ _ _ _ (by omega)]
  by_cases h : j = i
  · subst h
    rw [if_pos (by omega), if_pos rfl, Nat.add_sub_cancel_left]
  · have hval : j.val ≠ i.val := fun e => h (Fin.ext e)
    rw [if_neg (by omega), if_neg h, getLsbD_presentWord _ _ hb]

/-- A write of a read-write register keeps its implemented bits; only a CMD write makes the RSE busy (20 R108). -/
theorem writeLoc_register {l : Loc} {bits : Word} (s : State) (v : Word) (h : l.bits = some bits) :
    ∃ t, s.writeLoc v l = some t ∧ t.readLoc l = some (v &&& bits) ∧ t.shmemSize = s.shmemSize ∧
      (l ≠ .cmd → t.busy = s.busy) := by
  cases l with
  | cmd =>
    obtain rfl := Option.some.inj h
    exact ⟨_, rfl, congrArg some (and_fullWord v).symm, rfl, fun hc => absurd rfl hc⟩
  | cfgD | cfgP | shardCount | hint | winStart | winCount | aluN =>
    obtain rfl := Option.some.inj h
    exact ⟨_, rfl, congrArg some (and_fullWord v).symm, rfl, fun _ => rfl⟩
  | intEnable =>
    obtain rfl := Option.some.inj h
    exact ⟨_, rfl, congrArg some (flagWord_getLsbD_zero v), rfl, fun _ => rfl⟩
  | aluA | aluB =>
    obtain rfl := Option.some.inj h
    exact ⟨_, rfl, congrArg some (setWidth_setWidth_word (k := 8) (by decide) v), rfl, fun _ => rfl⟩
  | matArgRows | matArgCols =>
    obtain rfl := Option.some.inj h
    exact ⟨_, rfl, congrArg some (setWidth_setWidth_word (k := 16) (by decide) v), rfl, fun _ => rfl⟩
  | shardAddr | shardLen =>
    obtain rfl := Option.some.inj h
    refine ⟨_, rfl, congrArg some ?_, rfl, fun _ => rfl⟩
    rw [and_fullWord, Vector.getElem_set_self]
  | idxR | idxC =>
    obtain rfl := Option.some.inj h
    refine ⟨_, rfl, congrArg some ?_, rfl, fun _ => rfl⟩
    rw [Vector.getElem_set_self]
    exact setWidth_setWidth_word (k := 16) (by decide) v
  | present w =>
    obtain rfl := Option.some.inj h
    refine ⟨_, rfl, congrArg some ?_, rfl, fun _ => rfl⟩
    rw [presentWord_setPresentWord, if_pos rfl, and_fullWord]
  | _ => cases h

/-- An array's other entries after a write of one (20 R108). -/
theorem getElem_set_of_ne {α : Type} {n : Nat} (xs : Vector α n) (x : α) {i j : Fin n} (h : j ≠ i) :
    (xs.set i.val x)[j.val] = xs[j.val] :=
  Vector.getElem_set_ne i.isLt j.isLt fun e => h (Fin.ext e.symm)

/-- A write of a read-write register but CMD leaves every other location's value (20 R108, 70 R566). -/
theorem readLoc_writeLoc_of_ne {l l' : Loc} {s t : State} {v bits : Word} (h : l.bits = some bits) (hc : l ≠ .cmd)
    (hne : l' ≠ l) (ht : s.writeLoc v l = some t) : t.readLoc l' = s.readLoc l' := by
  cases l with
  | cmd => contradiction
  | intEnable | cfgD | cfgP | shardCount | hint | winStart | winCount | aluA | aluB | aluN | matArgRows | matArgCols =>
    obtain rfl := Option.some.inj ht
    cases l' <;> try contradiction
    all_goals rfl
  | present i =>
    obtain rfl := Option.some.inj ht
    cases l' with
    | present j =>
      have hji : j ≠ i := fun e => hne (congrArg Loc.present e)
      exact congrArg some ((presentWord_setPresentWord _ _ _ _).trans (if_neg hji))
    | _ => rfl
  | shardAddr i =>
    obtain rfl := Option.some.inj ht
    cases l' with
    | shardAddr j =>
      have hji : j ≠ i := fun e => hne (congrArg Loc.shardAddr e)
      exact congrArg some (getElem_set_of_ne _ _ hji)
    | _ => rfl
  | shardLen i =>
    obtain rfl := Option.some.inj ht
    cases l' with
    | shardLen j =>
      have hji : j ≠ i := fun e => hne (congrArg Loc.shardLen e)
      exact congrArg some (getElem_set_of_ne _ _ hji)
    | _ => rfl
  | idxR i =>
    obtain rfl := Option.some.inj ht
    cases l' with
    | idxR j =>
      have hji : j ≠ i := fun e => hne (congrArg Loc.idxR e)
      exact congrArg (fun x : Half => some (x.setWidth 32)) (getElem_set_of_ne _ _ hji)
    | _ => rfl
  | idxC i =>
    obtain rfl := Option.some.inj ht
    cases l' with
    | idxC j =>
      have hji : j ≠ i := fun e => hne (congrArg Loc.idxC e)
      exact congrArg (fun x : Half => some (x.setWidth 32)) (getElem_set_of_ne _ _ hji)
    | _ => rfl
  | _ => cases h

/-! ### Windows -/

/-- A write of a word of SHMEM stores its four lanes in the word's four bytes (20 R104, R110). -/
theorem byteAt_storeLanes (s : State) (a x : Nat) (v : Word) :
    { s with shmem := s.shmem.storeBytes a [laneOf v 0, laneOf v 1, laneOf v 2, laneOf v 3] }.byteAt x =
      if a ≤ x ∧ x < a + 4 then laneOf v (x - a) else s.byteAt x := by
  rw [byteAt_storeBytes]
  refine ite_congr rfl (fun hx => ?_) fun _ => rfl
  obtain ⟨b, rfl⟩ := Nat.exists_eq_add_of_le hx.1
  obtain rfl | rfl | rfl | rfl : b = 0 ∨ b = 1 ∨ b = 2 ∨ b = 3 := by omega
  all_goals simp only [Nat.add_sub_cancel_left]; rfl

/-- A word of a matrix register that touches it reads its lanes (20 R111). -/
theorem readLoc_matWord {s : State} {m : MatReg} {r : Fin 256} {w : Fin 128} (h : s.holds (.matWord m r w)) :
    s.readLoc (.matWord m r w) = some (readMatWord (s.mat m) (s.mat m).cols r.val w.val) :=
  if_pos (wordInside_eq_true_iff.2 h)

/-- A write of such a word writes its lanes (20 R111, 42 R318). -/
theorem writeLoc_matWord {s : State} {m : MatReg} {r : Fin 256} {w : Fin 128} (v : Word)
    (h : s.holds (.matWord m r w)) :
    s.writeLoc v (.matWord m r w) = some (s.setMat m (writeMatWord (s.mat m) r.val w.val v)) :=
  if_pos (wordInside_eq_true_iff.2 h)

/-- A word of CM reads its lanes (20 R111). -/
theorem readLoc_cmWord {s : State} {r : Fin 256} {w : Fin 64} (h : s.holds (.cmWord r w)) :
    s.readLoc (.cmWord r w) = some (readMatWord s.cm s.nData.toNat r.val w.val) :=
  if_pos (wordInside_eq_true_iff.2 h)

end Sys2Proof.Machine

open Sys2Proof Sys2Proof.Machine Sys2Proof.Claims

/-- Settles O50: a read answers from fields the record of its answer is none of. -/
theorem readsHaveNoSideEffects : Obligations.ReadsHaveNoSideEffects := by
  intro s t bits o h
  obtain ⟨l, v, hr, hv, rfl⟩ := hostRead_next h
  exact ⟨v, rfl, hostRead_of_readLoc hr ((readLoc_answered s (.data v) l).trans hv)⟩

/-- Settles O51: the location at a read-only offset keeps its value, as does CM's. -/
theorem readOnlyLocationsIgnoreWrites : Obligations.ReadOnlyLocationsIgnoreWrites := by
  refine fun s o v hb => ⟨fun h => ?_, fun r w hr hw ho => ?_⟩
  · obtain ⟨h4, hm⟩ := mapped_of_readOnlyOffset (s := s) h
    obtain ⟨l, hl, rfl⟩ := exists_loc_of_mapped h4 hm
    exact hostWrite_offset_idle hb hl (writeLoc_of_readOnlyOffset s v h)
  · subst ho
    exact ⟨fun hin => hostWrite_offset_idle (l := .cmWord ⟨r, hr⟩ ⟨w, hw⟩) hb trivial (writeLoc_cmWord v hin),
      fun hout => hostWrite_outOfMatrix (l := .cmWord ⟨r, hr⟩ ⟨w, hw⟩) v hb trivial hout⟩

/-- Settles O52: a register keeps its implemented bits, and no other location reads its field. -/
theorem writtenRegistersReadBack : Obligations.WrittenRegistersReadBack := by
  intro s o v bits hb h
  obtain ⟨h4, hm⟩ := mapped_of_implementedBits (s := s) h
  obtain ⟨l, hl, rfl⟩ := exists_loc_of_mapped h4 hm
  rw [implementedBits_offset] at h
  obtain ⟨t, ht, hread, hsize, hbusy⟩ := writeLoc_register s v h
  refine ⟨answered t .done, hostWrite_offset_idle hb hl ht, ?_, fun hcmd o' w hne hw => ?_⟩
  · refine reads_offset (s := answered t .done) l (hsize ▸ hl) (fun hbt => ?_) (by rw [readLoc_answered, hread])
    by_cases hc : l = .cmd
    · exact hc ▸ rfl
    · exact absurd (((hbusy hc).trans hb).symm.trans hbt) Bool.false_ne_true
  · have hc : l ≠ .cmd := fun e => hcmd (e ▸ rfl)
    obtain ⟨l', hl', rfl, hv⟩ := exists_loc_of_reads hw
    have hll : l' ≠ l := fun e => hne (e ▸ rfl)
    refine reads_offset_idle (s := answered t .done) ((hbusy hc).trans hb) (hsize ▸ hl') ?_
    rw [readLoc_answered, readLoc_writeLoc_of_ne h hc hll ht, hv]

/-- Settles O54: a word of SHMEM packs four bytes, and its write stores four. -/
theorem shmemWindowWords : Obligations.ShmemWindowWords := by
  intro s a v hsize hb h4 ha
  obtain ⟨-, -, hmax⟩ := hsize
  have hplaced : (Loc.shmem a).placed s.shmemSize := ⟨h4, ha, by omega⟩
  refine ⟨⟨_, reads_offset_idle (l := .shmem a) hb hplaced rfl, fun b hlane => laneOf_packLanes _ b hlane⟩,
    _, hostWrite_offset_idle (l := .shmem a) hb hplaced rfl, fun b hlane => ?_, fun x hx => ?_⟩
  · rw [byteAt_storeLanes, if_pos (by omega), Nat.add_sub_cancel_left]
    rfl
  · rw [byteAt_storeLanes, if_neg (by omega)]

/-- Settles O55: the word rule of a matrix register's window and of CM's. -/
theorem matrixWindowWords : Obligations.MatrixWindowWords := by
  refine ⟨fun s m r w o v hb hr hw ho => ⟨fun hrow hcol => ⟨?_, ?_⟩, fun hout => ?_⟩,
    fun s r w o v hb hr hw ho => ⟨fun hrow hcol => ⟨?_, ?_⟩, fun hout => ?_⟩⟩
  all_goals subst ho
  · exact ⟨_, reads_offset_idle (l := .matWord m ⟨r, hr⟩ ⟨w, hw⟩) hb trivial (readLoc_matWord ⟨hrow, hcol⟩),
      fun b hlane => laneOf_readMatWord _ _ _ _ b hlane⟩
  · exact ⟨writeMatWord (s.mat m) r w v, ⟨rfl, rfl, fun i j hi hj => at_writeMatWord v hi hj⟩,
      hostWrite_offset_idle (l := .matWord m ⟨r, hr⟩ ⟨w, hw⟩) hb trivial (writeLoc_matWord v ⟨hrow, hcol⟩)⟩
  · exact ⟨hostRead_outOfMatrix (l := .matWord m ⟨r, hr⟩ ⟨w, hw⟩) hb trivial hout,
      hostWrite_outOfMatrix (l := .matWord m ⟨r, hr⟩ ⟨w, hw⟩) v hb trivial hout⟩
  · exact ⟨_, reads_offset_idle (l := .cmWord ⟨r, hr⟩ ⟨w, hw⟩) hb trivial (readLoc_cmWord ⟨hrow, hcol⟩),
      fun b hlane => laneOf_readMatWord _ _ _ _ b hlane⟩
  · exact hostWrite_offset_idle (l := .cmWord ⟨r, hr⟩ ⟨w, hw⟩) hb trivial (writeLoc_cmWord v ⟨hrow, hcol⟩)
  · exact ⟨hostRead_outOfMatrix (l := .cmWord ⟨r, hr⟩ ⟨w, hw⟩) hb trivial hout,
      hostWrite_outOfMatrix (l := .cmWord ⟨r, hr⟩ ⟨w, hw⟩) v hb trivial hout⟩

end

section
/-! SUPPORT. Which agent takes a step, by the move that comes next. -/

namespace Sys2Proof.Machine

open Sys2Proof.Claims

/-- The engine's step with a legal word pending is the command's (40 R201, R202). -/
theorem engineStep_of_decode {s : State} {i : Instr} (hb : s.busy = true) (hd : decode s.cmd = .ok i) :
    engineStep s = exec i s := by
  rw [engineStep, if_pos hb, hd]

/-- With BUSY = 0 the engine does nothing (60 R525). -/
theorem engineStep_idle {s : State} (hb : s.busy = false) : engineStep s = .next s := by
  rw [engineStep, if_neg (by simp [hb])]

/-- With no move left the step is the engine's (70 R570). -/
theorem step_nil {s : State} (hm : s.host.moves = []) : step s = engineStep s := by
  simp only [step, nextMove, hm]

/-- A host that waits with BUSY = 1 leaves the step to the engine (30 R173). -/
theorem step_wait_busy {s : State} {ms : List Move} (hb : s.busy = true) (hm : s.host.moves = .wait :: ms) :
    step s = engineStep s := by
  simp only [step, nextMove, hm, hb, if_true]

/-- Any other next move is taken from the list and performed (40 R199). -/
theorem step_cons {s : State} {m : Move} {ms : List Move} (hm : s.host.moves = m :: ms)
    (hw : m = .wait → s.busy = false) : step s = performMove m (s.withMoves ms) := by
  cases m with
  | wait => simp only [step, nextMove, hm, hw rfl, Bool.false_eq_true, if_false]
  | _ => simp only [step, nextMove, hm]

/-- An access that completes completes for a host that survives a bus error too (20 R105). -/
theorem hostAttempt_of_next {s t : State} {a : Access} (h : hostAccess a s = .next t) : hostAttempt a s = .next t := by
  simp only [hostAttempt, h]

/-- A read that completes is compared under the mask, a mismatch being remembered (30 R170, R174). -/
theorem noteCheck_answered (s : State) (mask value v : Word) :
    (answered s (.data v)).noteCheck mask value = { s with host :=
      ⟨s.host.moves, .data v, s.host.checkFailed || decide (v &&& mask ≠ value &&& mask)⟩ } := by
  by_cases h : v &&& mask = value &&& mask <;> simp [State.noteCheck, answered, h]

/-- A check whose read gets a bus error stops with it (20 R105). -/
theorem performMove_check_fault {s : State} {o : Nat} {mask value : Word} {f : Fault}
    (h : hostRead 32 o s = .fault f) : performMove (.check o mask value) s = .fault f := by
  simp only [performMove, h]

/-- A check whose read completes notes its outcome (30 R174). -/
theorem performMove_check {s : State} {o : Nat} {mask value v : Word} (h : reads s o v) :
    performMove (.check o mask value) s = .next ((answered s (.data v)).noteCheck mask value) := by
  simp only [performMove, h]

end Sys2Proof.Machine

open Sys2Proof Sys2Proof.Machine Sys2Proof.Claims

/-- Settles O6: the next move says whose step it is, and each agent's step is its own rule. -/
theorem stepRunsTheDecodedCommand : Obligations.StepRunsTheDecodedCommand := by
  refine ⟨fun s i ms hb hd => ⟨fun hm => ?_, fun hm => ?_, fun hm => ?_⟩, fun s w i _ hd => ?_,
    fun s ms hb => ⟨fun hm => ?_, fun hm => ?_, fun hm => ?_⟩, ?_⟩
  · exact (step_cons hm nofun).trans (engineStep_of_decode (s := s.withMoves ms) hb hd)
  · exact (step_wait_busy hb hm).trans (engineStep_of_decode hb hd)
  · exact (step_nil hm).trans (engineStep_of_decode hb hd)
  · have hword : BitVec.ofNat 32 (w.toNat % 2 ^ 32) = w := by
      rw [Nat.mod_eq_of_lt w.isLt, BitVec.ofNat_toNat, BitVec.setWidth_eq]
    rw [State.withFetchWord, hword]
    exact (step_cons (s := s.issueNext w) rfl nofun).trans (engineStep_of_decode (s := s.issue w) rfl hd)
  · exact (step_cons hm nofun).trans (engineStep_idle (s := s.withMoves ms) hb)
  · exact step_cons hm fun _ => hb
  · exact (step_nil hm).trans (engineStep_idle hb)
  · rintro s u a o mask value v ms rfl
    refine ⟨fun hm => ?_, fun hm => ⟨step_cons hm nofun, fun t => hostAttempt_of_next⟩,
      fun hm => ⟨fun f hf => ?_, fun hread => ?_⟩⟩
    · exact (step_cons hm nofun).trans (by cases a <;> rfl)
    · exact (step_cons hm nofun).trans (performMove_check_fault hf)
    · exact ((step_cons hm nofun).trans (performMove_check hread)).trans
        (congrArg Host.Outcome.next (noteCheck_answered (s.withMoves ms) mask value v))

end

section
/-! SUPPORT. Words and their fields, the rows of the opcode map, and what decoding and encoding answer. -/

namespace Sys2Proof

/-! ### Words and their fields -/

/-- The field that a bit of a word belongs to (30 R151). -/
theorem getLsbD_word (f : Fields) (i : Nat) : f.word.getLsbD i =
    if i < 8 then f.op.getLsbD i else if i < 10 then f.md.getLsbD (i - 8)
    else if i < 12 then f.ma.getLsbD (i - 10) else if i < 14 then f.mb.getLsbD (i - 12)
    else if i < 16 then f.rsvLow.getLsbD (i - 14) else if i < 17 then f.f0.getLsbD (i - 16)
    else if i < 18 then f.f1.getLsbD (i - 17) else f.rsvHigh.getLsbD (i - 18) := by
  simp only [Fields.word, BitVec.getLsbD_append]
  grind

/-- A word's fields cover all of its bits (30 R151). -/
@[simp] theorem word_fieldsOf (w : Word) : (fieldsOf w).word = w := by
  refine BitVec.eq_of_getLsbD_eq fun i hi => ?_
  simp only [getLsbD_word, fieldsOf, BitVec.getLsbD_extractLsb']
  grind

/-- No two fields of a word share a bit (30 R151). -/
@[simp] theorem fieldsOf_word (f : Fields) : fieldsOf f.word = f := by
  obtain ⟨op, md, ma, mb, rsvLow, f0, f1, rsvHigh⟩ := f
  simp only [fieldsOf, Fields.mk.injEq]
  refine ⟨?_, ?_, ?_, ?_, ?_, ?_, ?_, ?_⟩ <;> refine BitVec.eq_of_getLsbD_eq fun i hi => ?_ <;>
    simp only [BitVec.getLsbD_extractLsb', getLsbD_word] <;> grind

/-- Words with the same fields are equal. -/
theorem fieldsOf_inj {v w : Word} : fieldsOf v = fieldsOf w ↔ v = w :=
  (Function.LeftInverse.injective word_fieldsOf).eq_iff

/-- The fields of two words, ANDed field by field. -/
def Fields.and (f g : Fields) : Fields :=
  ⟨f.op &&& g.op, f.md &&& g.md, f.ma &&& g.ma, f.mb &&& g.mb, f.rsvLow &&& g.rsvLow, f.f0 &&& g.f0, f.f1 &&& g.f1,
    f.rsvHigh &&& g.rsvHigh⟩

theorem fieldsOf_and (v w : Word) : fieldsOf (v &&& w) = (fieldsOf v).and (fieldsOf w) := by
  simp only [fieldsOf, Fields.and, BitVec.extractLsb'_and]

/-- A word is its fields shifted into place, as the word formulas of the commands' rules write it. -/
theorem word_eq_or (f : Fields) : f.word =
    f.op.setWidth 32 ||| f.md.setWidth 32 <<< 8 ||| f.ma.setWidth 32 <<< 10 ||| f.mb.setWidth 32 <<< 12 |||
      f.rsvLow.setWidth 32 <<< 14 ||| f.f0.setWidth 32 <<< 16 ||| f.f1.setWidth 32 <<< 17 |||
      f.rsvHigh.setWidth 32 <<< 18 := by
  refine BitVec.eq_of_getLsbD_eq fun i hi => ?_
  simp only [getLsbD_word, BitVec.getLsbD_or, BitVec.getLsbD_shiftLeft, BitVec.getLsbD_setWidth]
  grind

theorem word_ofOp (op : BitVec 8) : (Fields.ofOp op).word = op.setWidth 32 := by
  simp [word_eq_or, Fields.ofOp]

theorem setWidth_regBits (m : MatReg) : (regBits m).setWidth 32 = BitVec.ofNat 32 m.val := by
  revert m; decide

/-- The word formula of the commands that name three matrix registers (42 R323, R324). -/
theorem word_of_three_regs (op : BitVec 8) (d a b : MatReg) :
    ({ Fields.ofOp op with md := regBits d, ma := regBits a, mb := regBits b } : Fields).word =
      op.setWidth 32 ||| BitVec.ofNat 32 d.val <<< 8 ||| BitVec.ofNat 32 a.val <<< 10 |||
        BitVec.ofNat 32 b.val <<< 12 := by
  simp [word_eq_or, Fields.ofOp, setWidth_regBits]

/-! ### Formats -/

/-- The mask of a format, field by field: every bit of the opcode, of the reserved fields and of each unused field
(30 R152). -/
def Format.maskFields (fmt : Format) : Fields where
  op := .allOnes 8
  md := if fmt.usesMd then 0#2 else .allOnes 2
  ma := if fmt.usesMa then 0#2 else .allOnes 2
  mb := if fmt.usesMb then 0#2 else .allOnes 2
  rsvLow := .allOnes 2
  f0 := if fmt.usesF0 then 0#1 else .allOnes 1
  f1 := if fmt.usesF1 then 0#1 else .allOnes 1
  rsvHigh := .allOnes 14

theorem fieldsOf_mask (fmt : Format) : fieldsOf fmt.mask = fmt.maskFields := by cases fmt <;> rfl

/-- A field under its mask is 0 iff the format uses the field or the field is 0. -/
theorem and_fieldMask_eq_zero_iff {n : Nat} (used : Bool) (x : BitVec n) :
    (x &&& if used then 0#n else .allOnes n) = 0#n ↔ used = true ∨ x = 0#n := by
  cases used <;> simp

/-- The mask leaves the opcode alone iff the fields are well formed (30 R152). -/
theorem and_maskFields_eq_ofOp_iff (f : Fields) (fmt : Format) (op : BitVec 8) :
    f.and fmt.maskFields = .ofOp op ↔ f.op = op ∧ f.wellFormed fmt = true := by
  simp [Fields.and, Format.maskFields, Fields.ofOp, Fields.wellFormed, Fields.reservedZero, and_fieldMask_eq_zero_iff,
    -BitVec.reduceAllOnes]
  grind

/-- A row matches a word iff the opcode is the row's and every field that the row's format does not use is 0
(30 R152, R155). -/
theorem and_mask_eq_matchWord_iff (w : Word) (r : Row) :
    w &&& r.format.mask = r.matchWord ↔ (fieldsOf w).op = r.op ∧ (fieldsOf w).wellFormed r.format = true := by
  rw [← fieldsOf_inj, fieldsOf_and, fieldsOf_mask, Row.matchWord, ← word_ofOp, fieldsOf_word,
    and_maskFields_eq_ofOp_iff]

/-- The fields the format uses, with this opcode and all else 0. -/
def Fields.kept (op : BitVec 8) (fmt : Format) (f : Fields) : Fields where
  op := op
  md := if fmt.usesMd then f.md else 0#2
  ma := if fmt.usesMa then f.ma else 0#2
  mb := if fmt.usesMb then f.mb else 0#2
  rsvLow := 0#2
  f0 := if fmt.usesF0 then f.f0 else 0#1
  f1 := if fmt.usesF1 then f.f1 else 0#1
  rsvHigh := 0#14

/-- A field is kept iff the format uses it or it is 0. -/
theorem keptField_eq_iff {n : Nat} (used : Bool) (x : BitVec n) :
    (if used then x else 0#n) = x ↔ used = true ∨ x = 0#n := by
  cases used
  · simp only [Bool.false_eq_true, if_false, false_or]
    exact eq_comm
  · simp

/-- Fields are well formed iff they hold nothing but what their format uses (30 R152). -/
theorem kept_eq_self_iff (f : Fields) (fmt : Format) : f.kept f.op fmt = f ↔ f.wellFormed fmt = true := by
  obtain ⟨op, md, ma, mb, rsvLow, f0, f1, rsvHigh⟩ := f
  simp only [Fields.kept, Fields.mk.injEq, keptField_eq_iff, Fields.wellFormed, Fields.reservedZero, Bool.and_eq_true,
    Bool.or_eq_true, beq_iff_eq, true_and]
  grind

/-! ### The rows of the opcode map -/

/-- "The rows' opcodes are distinct" (30 R155). -/
theorem eq_of_op_eq {r q : Row} (hr : r ∈ opcodeMap) (hq : q ∈ opcodeMap) (h : r.op = q.op) : r = q :=
  List.inj_on_of_nodup_map (f := Row.op) (by decide) hr hq h

/-- An opcode's row is the row of the map that has the opcode (30 R155). -/
theorem rowOfOpcode_eq_some_iff {op : BitVec 8} {r : Row} :
    rowOfOpcode op = some r ↔ r ∈ opcodeMap ∧ r.op = op := by
  have hfound {q : Row} (h : rowOfOpcode op = some q) : q ∈ opcodeMap ∧ q.op = op :=
    ⟨List.mem_of_find?_eq_some h, by simpa using List.find?_some h⟩
  refine ⟨hfound, ?_⟩
  rintro ⟨hr, rfl⟩
  have hsome : (rowOfOpcode r.op).isSome := List.find?_isSome.2 ⟨r, hr, beq_self_eq_true _⟩
  obtain ⟨q, hq⟩ := Option.isSome_iff_exists.1 hsome
  obtain ⟨hmem, hop⟩ := hfound hq
  rw [hq, eq_of_op_eq hmem hr hop]

@[simp] theorem flagOf_flagBit (b : Bool) : flagOf (flagBit b) = b := by cases b <;> rfl

@[simp] theorem flagBit_flagOf (b : BitVec 1) : flagBit (flagOf b) = b := by revert b; decide

/-- What a row builds has the fields the row's format uses, and the row's opcode (30 R154). -/
theorem fields_build (f : Fields) : ∀ r ∈ opcodeMap, (r.build f).fields = f.kept r.op r.format := by
  simp [opcodeMap, coderRows, unitRows, Instr.fields, Fields.ofOp, Fields.kept, regOf, regBits,
    Format.usesMd, Format.usesMa, Format.usesMb, Format.usesF0, Format.usesF1]

/-- The row of a command's opcode builds the command back from its fields (30 R154). -/
theorem exists_row_build_fields (i : Instr) :
    ∃ r, rowOfOpcode i.fields.op = some r ∧ i.fields.wellFormed r.format = true ∧ r.build i.fields = i := by
  cases i with
  | byteCount f0 => exact ⟨_, rfl, rfl, congrArg Instr.byteCount (flagOf_flagBit f0)⟩
  | byteCountOpt f0 => exact ⟨_, rfl, rfl, congrArg Instr.byteCountOpt (flagOf_flagBit f0)⟩
  | checkWindow f0 f1 => exact ⟨_, rfl, rfl, congrArg₂ Instr.checkWindow (flagOf_flagBit f0) (flagOf_flagBit f1)⟩
  | _ => exact ⟨_, rfl, rfl, rfl⟩

/-! ### Decoding -/

/-- The row that matches a word is the row of its opcode, and the word decodes to what that row builds (30 R155). -/
theorem decode_of_matches {w : Word} {r : Row} (hr : r ∈ opcodeMap) (hm : w &&& r.format.mask = r.matchWord) :
    decode w = .ok (r.build (fieldsOf w)) := by
  have hop : (fieldsOf w).op = r.op := ((and_mask_eq_matchWord_iff w r).1 hm).1
  have hrow : rowOfOpcode (w.extractLsb' 0 8) = some r := rowOfOpcode_eq_some_iff.2 ⟨hr, hop.symm⟩
  simp only [decode, hrow, hm, if_true]

/-- A word that decodes is matched by a row, and is what that row builds (30 R155, R156). -/
theorem exists_matches_of_decode {w : Word} {i : Instr} (h : decode w = .ok i) :
    ∃ r ∈ opcodeMap, w &&& r.format.mask = r.matchWord ∧ r.build (fieldsOf w) = i := by
  unfold decode at h
  split at h
  next => cases h
  next r hrow =>
    split_ifs at h with hm
    exact ⟨r, (rowOfOpcode_eq_some_iff.1 hrow).1, hm, Except.ok.inj h⟩

/-- Decoding a command's word gives the command back (30 R152, R154). -/
theorem decode_encode (i : Instr) : decode (encode i) = .ok i := by
  obtain ⟨r, hrow, hw, hbuild⟩ := exists_row_build_fields i
  obtain ⟨hr, hop⟩ := rowOfOpcode_eq_some_iff.1 hrow
  have hfields : fieldsOf (encode i) = i.fields := fieldsOf_word i.fields
  have hm : encode i &&& r.format.mask = r.matchWord := by
    rw [and_mask_eq_matchWord_iff, hfields]
    exact ⟨hop.symm, hw⟩
  rw [decode_of_matches hr hm, hfields, hbuild]

end Sys2Proof

open Sys2Proof Sys2Proof.Machine Sys2Proof.Claims

/-- Settles O1: the command's row builds the command back from the fields of its word. -/
theorem decodeEncodeRoundTrip : Obligations.DecodeEncodeRoundTrip := decode_encode

/-- Settles O2: the row that matches the word keeps every field that can be nonzero. -/
theorem legalWordIsItsCommandsWord : Obligations.LegalWordIsItsCommandsWord := by
  intro w i h
  obtain ⟨r, hr, hm, rfl⟩ := exists_matches_of_decode h
  obtain ⟨hop, hw⟩ := (and_mask_eq_matchWord_iff w r).1 hm
  calc encode (r.build (fieldsOf w))
    _ = ((fieldsOf w).kept r.op r.format).word := congrArg Fields.word (fields_build _ r hr)
    _ = (fieldsOf w).word := by rw [← hop, (kept_eq_self_iff _ _).2 hw]
    _ = w := word_fieldsOf w

/-- Settles O3: what the row's mask asks for is that the fields its format does not use are 0. -/
theorem legalWordIffUnusedFieldsZero : Obligations.LegalWordIffUnusedFieldsZero := by
  intro w
  constructor
  · rintro ⟨i, h⟩
    obtain ⟨r, hr, hm, -⟩ := exists_matches_of_decode h
    exact ⟨r, hr, (and_mask_eq_matchWord_iff w r).1 hm⟩
  · rintro ⟨r, hr, hf⟩
    exact ⟨_, decode_of_matches hr ((and_mask_eq_matchWord_iff w r).2 hf)⟩

/-- Settles O4: rows that match a word have its opcode, and no two rows have the same opcode. -/
theorem decodeSelectsTheMatchingRow : Obligations.DecodeSelectsTheMatchingRow := by
  refine fun w => ⟨fun r hr q hq hmr hmq => ?_, fun r hr hm => decode_of_matches hr hm, fun hnone => ?_⟩
  · have hopr : (fieldsOf w).op = r.op := ((and_mask_eq_matchWord_iff w r).1 hmr).1
    have hopq : (fieldsOf w).op = q.op := ((and_mask_eq_matchWord_iff w q).1 hmq).1
    rw [eq_of_op_eq hr hq (hopr.symm.trans hopq)]
  · cases h : decode w with
    | error e => exact ⟨e, rfl⟩
    | ok i =>
      obtain ⟨r, hr, hm, -⟩ := exists_matches_of_decode h
      exact absurd hm (hnone r hr)

/-- Settles O5: each example is evaluated. -/
theorem exampleWordsDecode : Obligations.ExampleWordsDecode := ⟨rfl, rfl, rfl, rfl, rfl, rfl⟩

end

section
/-! SUPPORT. MAT_AUGMENT: what each of its checks answers. -/

namespace Sys2Proof.Machine

open Sys2Proof.Claims

/-- A check on a matrix register without a matrix (42 R302). -/
theorem definedMat_undefined {s : State} {m : MatReg} (h : (s.mat m).rows = 0) :
    definedMat s m = raise .invalidDimension 0 := if_pos h

/-- A check on a matrix register that holds a matrix (42 R302). -/
theorem definedMat_defined {s : State} {m : MatReg} (h : (s.mat m).rows ≠ 0) : definedMat s m = .ok (s.mat m) :=
  if_neg h

/-- A command whose rule raises an error completes with it (40 R205). -/
theorem exec_of_raise {i : Instr} {s : State} {c : ErrCode} {info : Nat} (h : ruleOf i s = raise c info) :
    exec i s = .next (failed s c.value info) := by
  rw [exec_eq_complete, h]; rfl

/-- A command whose rule succeeds completes with what it wrote (40 R204). -/
theorem exec_of_ok {i : Instr} {s t : State} (h : ruleOf i s = .ok t) : exec i s = .next (finished t) := by
  rw [exec_eq_complete, h]; rfl

/-- MAT_AUGMENT with an operand that holds no matrix (42 R324). -/
theorem ruleOf_matAugment_undefined (d : MatReg) {a b : MatReg} {s : State}
    (h : (s.mat a).rows = 0 ∨ (s.mat b).rows = 0) : ruleOf (.matAugment d a b) s = raise .invalidDimension 0 := by
  by_cases ha : (s.mat a).rows = 0
  · simp only [ruleOf, matAugmentRule, definedMat_undefined ha]; rfl
  · simp only [ruleOf, matAugmentRule, definedMat_defined ha, definedMat_undefined (h.resolve_left ha)]; rfl

/-- MAT_AUGMENT with two matrices: the checks left to do, in order (42 R324). -/
theorem ruleOf_matAugment_defined (d : MatReg) {a b : MatReg} {s : State} (ha : (s.mat a).rows ≠ 0)
    (hb : (s.mat b).rows ≠ 0) : ruleOf (.matAugment d a b) s =
      if (s.mat a).rows ≠ (s.mat b).rows then raise .dimensionMismatch 0
      else if 512 < (s.mat a).cols + (s.mat b).cols then raise .invalidDimension 0
      else .ok (s.setMat d ((s.mat a).augment (s.mat b))) := by
  simp only [ruleOf, matAugmentRule, definedMat_defined ha, definedMat_defined hb]; rfl

/-- The elements of a joined matrix (42 R313). -/
theorem elems_augment (a b : Mat) : Elems (a.augment b) a.rows (a.cols + b.cols)
    (fun r c => if c < a.cols then a.at r c else b.at r (c - a.cols)) :=
  ⟨rfl, rfl, fun _ _ hi hj => at_build _ hi hj⟩

end Sys2Proof.Machine

open Sys2Proof Sys2Proof.Machine Sys2Proof.Claims

/-- Settles O27: the formula is the command's word, and each check answers in its turn. -/
theorem matAugmentJoinsColumns : Obligations.MatAugmentJoinsColumns := by
  intro d a b s
  refine ⟨?_, fun h => ?_, fun ha hb hr => ?_, fun ha hb hr hc => ?_, fun ha hb hr hc => ?_⟩
  · have hword : encode (.matAugment d a b) = _ := word_of_three_regs 0x34#8 d a b
    exact hword ▸ decode_encode (.matAugment d a b)
  · exact exec_of_raise (ruleOf_matAugment_undefined d h)
  · exact exec_of_raise ((ruleOf_matAugment_defined d ha hb).trans (if_pos hr))
  · have hrule := (ruleOf_matAugment_defined d ha hb).trans (if_neg (not_not.2 hr))
    exact exec_of_raise (hrule.trans (if_pos hc))
  · have hrule := (ruleOf_matAugment_defined d ha hb).trans (if_neg (not_not.2 hr))
    exact ⟨_, elems_augment (s.mat a) (s.mat b), exec_of_ok (hrule.trans (if_neg (not_lt.2 hc)))⟩

end

section
/-! SUPPORT. How a command fails: illegal words, writes while BUSY = 1, and what a failure's rule has read. -/

namespace Sys2Proof.Machine

open Sys2Proof.Claims

/-! ### Issue and illegal words -/

/-- The engine's step with a word of no row pending (40 R213). -/
theorem engineStep_of_illegal {s : State} (hb : s.busy = true) (hd : ∀ i, decode s.cmd ≠ .ok i) :
    engineStep s = .next (failed s 0x10#8 0) := by
  rw [engineStep, if_pos hb]
  split
  · rename_i i hi
    exact absurd hi (hd i)
  · rfl

/-- With BUSY = 1 a write of a location closed then gets that bus error (20 R106). -/
theorem hostWrite_offset_busy {s : State} {l : Loc} (v : Word) (hb : s.busy = true) (hl : l.placed s.shmemSize)
    (hclosed : openWhileBusy true l = false) : hostWrite 32 l.offset v s = .fault (.busError .busy l.offset) := by
  have hreach : reachedLoc s true 32 l.offset = .error .busy := by
    simp [reachedLoc, offset_mod_four hl, locate_offset hl, hb, hclosed]
  simp only [hostWrite, hreach]

/-! ### Failed commands -/

/-- A command that fails is one whose rule raised the error it reports (40 R205). -/
theorem exists_error_of_err {i : Instr} {s t : State} (h : exec i s = .next t) (herr : t.err = true) :
    ∃ e, ruleOf i s = .error e ∧ t = s.completeErr e := by
  rw [exec_eq_complete] at h
  obtain ⟨u, -, rfl⟩ | he := complete_cases h
  · cases herr
  · exact he

/-- An error report in the words of the statements (40 R205). -/
theorem completeErr_eq_failed (s : State) (e : CmdError) : s.completeErr e = failed s e.code.value e.info.toNat := by
  rw [failed, BitVec.ofNat_toNat, BitVec.setWidth_eq]
  rfl

/-- The state in which the word of a command that failed in `s` is pending again (40 R212). -/
def State.reissued (s : State) : State :=
  { s with busy := true, done := false, err := false, errCode := errNone, errInfo := 0#32, doneIp := true }

/-- Nothing of the error is left in it (40 R200, R205). -/
theorem issue_completeErr (s : State) (e : CmdError) : (s.completeErr e).issue s.cmd = s.reissued := rfl

/-- What a rule answers, its updates left out: that its checks pass, or the first error. -/
def verdict (r : Except CmdError State) : Except CmdError Unit := (fun _ => ()) <$> r

/-- An error is the verdict's. -/
theorem verdict_eq_error_iff {r : Except CmdError State} {e : CmdError} : verdict r = .error e ↔ r = .error e := by
  cases r <;> simp only [verdict, Functor.map, Except.map, reduceCtorEq, Except.error.injEq]

/-- No check of a command reads the status, the report or the interrupt (40 R212). -/
theorem verdict_reissued (i : Instr) (s : State) : verdict (ruleOf i s.reissued) = verdict (ruleOf i s) := by
  cases i with
  | configure =>
    simp only [verdict, ruleOf, configureRule, apply_ite (Functor.map fun _ : State => ())]
    refine ite_congr rfl (fun _ => rfl) fun _ => ?_
    have hcm : codingMatrix s.reissued.cfgD.toNat s.reissued.cfgP.toNat = codingMatrix s.cfgD.toNat s.cfgP.toNat := rfl
    rw [hcm]
    split <;> rfl
  | reconstruct =>
    simp only [verdict, ruleOf, reconstructRule, map_bind, apply_ite (Functor.map fun _ : State => ())]
    refine bind_congr fun len => ite_congr rfl (fun _ => rfl) fun _ => bind_congr fun _ => bind_congr fun _ => ?_
    have hdm : s.reissued.decodeMatrix = s.decodeMatrix := rfl
    rw [hdm]
    split <;> rfl
  | byteCountOpt f =>
    simp only [verdict, ruleOf, byteCountOptRule, map_bind, apply_ite (Functor.map fun _ : State => ())]
    refine bind_congr fun _ => ite_congr rfl (fun _ => rfl) fun _ => ?_
    have hslots : s.reissued.presentSlots s.reissued.shardCount.toNat = s.presentSlots s.shardCount.toNat := rfl
    rw [hslots]
    split <;> rfl
  | gfDiv =>
    simp only [verdict, ruleOf, gfDivRule]
    have hdiv : gfDiv s.reissued.aluA s.reissued.aluB = gfDiv s.aluA s.aluB := rfl
    rw [hdiv]
    split <;> rfl
  | matInvert md ma =>
    simp only [verdict, ruleOf, matInvertRule, map_bind, apply_ite (Functor.map fun _ : State => ())]
    refine bind_congr fun a => ite_congr rfl (fun _ => rfl) fun _ => ?_
    split <;> rfl
  | _ =>
    simp only [verdict, ruleOf, encodeRule, verifyRule, byteCountRule, markAllPresentRule, countPresentRule,
      checkAllPresentRule, checkWindowRule, matNewRule, matIdentityRule, matVandermondeRule, matMulRule, matAugmentRule,
      matSubmatrixRule, matLoadCmRule, map_bind, apply_ite (Functor.map fun _ : State => ())]
    rfl

end Sys2Proof.Machine

open Sys2Proof Sys2Proof.Machine Sys2Proof.Claims

/-- Settles O7: whichever step is the engine's, it finds no row and reports that alone. -/
theorem illegalWordReportsIllegalCommand : Obligations.IllegalWordReportsIllegalCommand := by
  intro s ms hb hd
  refine ⟨fun hm => ?_, fun hm => ?_, fun hm => ?_⟩
  · exact (step_cons hm nofun).trans (engineStep_of_illegal (s := s.withMoves ms) hb hd)
  · exact (step_wait_busy hb hm).trans (engineStep_of_illegal hb hd)
  · exact (step_nil hm).trans (engineStep_of_illegal hb hd)

/-- Settles O8: CMD is mapped and takes every word with BUSY = 0, and is closed to writes with BUSY = 1. -/
theorem cmdWriteIssues : Obligations.CmdWriteIssues := fun _ w =>
  ⟨fun hb => hostWrite_offset_idle (l := .cmd) hb trivial rfl,
    fun hb => hostWrite_offset_busy (l := .cmd) w hb trivial rfl⟩

/-- Settles O10: a failure is an error report of the state before. -/
theorem failedCommandWritesOnlyItsReport : Obligations.FailedCommandWritesOnlyItsReport := by
  intro i s t h herr
  obtain ⟨e, -, rfl⟩ := exists_error_of_err h herr
  exact ⟨_, _, completeErr_eq_failed s e⟩

/-- Settles O12: the rule raises its error again, since no check reads what the report and the issue have written. -/
theorem failureRepeats : Obligations.FailureRepeats := by
  intro i s t h herr
  obtain ⟨e, he, rfl⟩ := exists_error_of_err h herr
  have hagain : ruleOf i s.reissued = .error e := by
    rwa [← verdict_eq_error_iff, verdict_reissued, verdict_eq_error_iff]
  refine ⟨s.reissued.completeErr e, ?_, rfl, rfl, rfl⟩
  rw [issue_completeErr, exec_eq_complete, hagain]
  rfl

end

section
/-! SUPPORT. The first check of a coder command that fails: what each check raises, and how a chain passes it on. -/

namespace Sys2Proof.Machine

open Sys2Proof.Claims

/-! ### The first slot of a list -/

/-- `k` is the least slot of the list with the property. -/
structure FirstIn (slots : List Nat) (p : Nat → Prop) (k : Nat) : Prop where
  mem : k ∈ slots
  holds : p k
  least : ∀ j ∈ slots, j < k → ¬ p j

/-- A scan of rising slots finds the least one with the property. -/
theorem find?_eq_some_of_firstIn {slots : List Nat} {p : Nat → Prop} {q : Nat → Bool} {k : Nat}
    (hs : slots.Pairwise (· < ·)) (h : FirstIn slots p k) (hq : ∀ i, q i = true ↔ p i) :
    slots.find? q = some k := by
  obtain ⟨front, back, rfl⟩ := List.append_of_mem h.mem
  obtain ⟨-, -, hlt⟩ := List.pairwise_append.1 hs
  refine List.find?_eq_some_iff_append.2 ⟨(hq k).2 h.holds, front, back, rfl, fun j hj => ?_⟩
  have hj' : ¬ p j := h.least j (List.mem_append_left _ hj) (hlt j hj k List.mem_cons_self)
  simpa [← hq] using hj'

/-- All slots are in rising order (43 R390). -/
theorem pairwise_allSlots (s : State) : s.allSlots.Pairwise (· < ·) := List.pairwise_lt_range

/-- So are the parity slots (43 R390). -/
theorem pairwise_paritySlots (s : State) : s.paritySlots.Pairwise (· < ·) := List.pairwise_lt_range' 1

/-- So are the present slots (43 R395). -/
theorem pairwise_presentSlots (s : State) (n : Nat) : (s.presentSlots n).Pairwise (· < ·) :=
  List.pairwise_lt_range.filter _

/-- So are the absent slots (43 R395). -/
theorem pairwise_absentSlots (s : State) (n : Nat) : (s.absentSlots n).Pairwise (· < ·) :=
  List.pairwise_lt_range.filter _

/-- The first of all slots. -/
theorem firstIn_allSlots {s : State} {p : Nat → Prop} {k : Nat} (h : IsFirst p 0 (total s) k) :
    FirstIn s.allSlots p k := by
  obtain ⟨-, hk, hp, hmin⟩ := h
  exact ⟨mem_allSlots.2 hk, hp, fun j _ hjk => hmin j hjk j.zero_le⟩

/-- The first parity slot. -/
theorem firstIn_paritySlots {s : State} {p : Nat → Prop} {k : Nat} (h : IsFirst p (data s) (total s) k) :
    FirstIn s.paritySlots p k := by
  obtain ⟨hd, hk, hp, hmin⟩ := h
  have hslots (i : Nat) : i ∈ s.paritySlots ↔ data s ≤ i ∧ i < total s := mem_paritySlots (hd.trans hk.le)
  exact ⟨(hslots k).2 ⟨hd, hk⟩, hp, fun j hj hjk => hmin j hjk ((hslots j).1 hj).1⟩

/-- The first present slot with a property. -/
theorem firstIn_presentSlots {s : State} {p : Nat → Prop} {k n : Nat}
    (h : IsFirst (fun i => here s i ∧ p i) 0 n k) : FirstIn (s.presentSlots n) p k := by
  obtain ⟨-, hk, ⟨hhere, hp⟩, hmin⟩ := h
  exact ⟨mem_presentSlots.2 ⟨hk, hhere⟩, hp,
    fun j hj hjk hpj => hmin j hjk j.zero_le ⟨(mem_presentSlots.1 hj).2, hpj⟩⟩

/-- The absent slots in the words of the statements (43 R395). -/
theorem mem_absentSlots_iff_not_here {s : State} {n i : Nat} : i ∈ s.absentSlots n ↔ i < n ∧ ¬ here s i :=
  mem_absentSlots.trans (and_congr_right' (Bool.not_eq_true _).symm.to_iff)

/-- The first absent slot with a property. -/
theorem firstIn_absentSlots {s : State} {p : Nat → Prop} {k n : Nat}
    (h : IsFirst (fun i => ¬ here s i ∧ p i) 0 n k) : FirstIn (s.absentSlots n) p k := by
  obtain ⟨-, hk, ⟨hhere, hp⟩, hmin⟩ := h
  exact ⟨mem_absentSlots_iff_not_here.2 ⟨hk, hhere⟩, hp,
    fun j hj hjk hpj => hmin j hjk j.zero_le ⟨(mem_absentSlots_iff_not_here.1 hj).2, hpj⟩⟩

/-- The present slots begin with the first one (43 R395). -/
theorem headD_presentSlots {s : State} {n f : Nat} (h : IsFirst (here s) 0 n f) : (s.presentSlots n).headD 0 = f := by
  obtain ⟨-, hf, hhere, hmin⟩ := h
  have hfirst : FirstIn (List.range n) (here s) f :=
    ⟨List.mem_range.2 hf, hhere, fun j _ hjf => hmin j hjf j.zero_le⟩
  rw [List.headD_eq_head?_getD, State.presentSlots, List.head?_filter,
    find?_eq_some_of_firstIn (q := s.isPresent) List.pairwise_lt_range hfirst fun _ => Iff.rfl, Option.getD_some]

/-! ### What each check raises -/

/-- The first bad length is reported (40 R210, 43 R395). -/
theorem checkSizes_raise {s : State} {slots : List Nat} {len k : Nat} (hs : slots.Pairwise (· < ·))
    (h : FirstIn slots (sizeBad s len) k) : checkSizes s slots len = raise .incorrectShardSize k := by
  rw [checkSizes, find?_eq_some_of_firstIn hs h fun i => by simp]

/-- The first buffer past SHMEM_SIZE is reported (40 R208). -/
theorem checkBounds_raise {s : State} {len k : Nat} (h : FirstIn s.allSlots (endsPast s len) k) :
    checkBounds s s.allSlots len = raise .addressError k := by
  rw [checkBounds, find?_eq_some_of_firstIn (pairwise_allSlots s) h fun i => by simp]

/-- The first written buffer that overlaps another is reported (40 R209). -/
theorem checkOverlap_raise {s : State} {written : List Nat} {len k : Nat} (hs : written.Pairwise (· < ·))
    (h : FirstIn written (overlaps s len) k) : checkOverlap s s.allSlots written len = raise .bufferOverlap k := by
  rw [checkOverlap, find?_eq_some_of_firstIn hs h fun i => by simp [State.overlap]]

/-- With no buffer past SHMEM_SIZE the bounds check passes (40 R208). -/
theorem checkBounds_pass {s : State} {len : Nat} (h : ∀ i, i < total s → ¬ endsPast s len i) :
    checkBounds s s.allSlots len = .ok () :=
  (checkBounds_ok ..).2 fun i hi => not_lt.1 (h i (mem_allSlots.1 hi))

/-- With no written buffer overlapping another the overlap check passes (40 R209). -/
theorem checkOverlap_pass {s : State} {written : List Nat} {len : Nat} (h : ∀ i ∈ written, ¬ overlaps s len i) :
    checkOverlap s s.allSlots written len = .ok () := by
  refine (checkOverlap_ok ..).2 fun i hi j hj hne => (overlap_false ..).2 ?_
  have hno : ¬(s.addrOf i < s.addrOf j + len ∧ s.addrOf j < s.addrOf i + len) :=
    fun ho => h i hi ⟨j, mem_allSlots.1 hj, hne, ho⟩
  omega

/-- The length is neither 0 nor another one (40 R210). -/
theorem not_sizeBad_iff {s : State} {len i : Nat} : ¬ sizeBad s len i ↔ s.lenOf i ≠ 0 ∧ s.lenOf i = len := by
  simp only [sizeBad, not_or, not_not, ne_eq]

/-! ### Chains of checks -/

/-- A link that passes hands its value on. -/
theorem bind_of_ok {α β : Type} {x : Except CmdError α} {a : α} (f : α → Except CmdError β) (h : x = .ok a) :
    (x >>= f) = f a := by rw [h]; rfl

/-- A link that raises an error ends the chain with it. -/
theorem bind_of_raise {α β : Type} {x : Except CmdError α} {c : ErrCode} {k : Nat} (f : α → Except CmdError β)
    (h : x = raise c k) : (x >>= f) = raise c k := by rw [h]; rfl

/-- A configured collection of NTOTAL shards passes the first two links (40 R206, R207). -/
theorem bind_of_counted {α : Type} {s : State} {f : Unit → Except CmdError α} (h : counted s) :
    (checkConfigured s >>= fun _ => checkCount s >>= f) = f () := by
  rw [bind_of_ok _ ((checkConfigured_ok s).2 h.1), bind_of_ok _ ((checkCount_ok s).2 h.2)]

/-- The two checks that ENCODE, VERIFY and RECONSTRUCT begin with (40 R206, R207). -/
def checkCounted (s : State) : Except CmdError Unit := checkConfigured s >>= fun _ => checkCount s

/-- ENCODE's checks are VERIFY's and then the overlap check (43 R390, R393). -/
theorem encodeChecks_eq (s : State) : encodeChecks s =
    (verifyChecks s >>= fun len => checkOverlap s s.allSlots s.paritySlots len >>= fun _ => .ok len) := by
  simp only [encodeChecks, verifyChecks, bind_assoc]
  rfl

/-- ENCODE and VERIFY both begin with VERIFY's checks (43 R390, R393). -/
theorem exists_ruleOf_eq_verifyChecks_bind {i : Instr} (hi : i = .encode ∨ i = .verify) (s : State) :
    ∃ f, ruleOf i s = (verifyChecks s >>= f) := by
  obtain rfl | rfl := hi
  · exact ⟨_, by rw [ruleOf, encodeRule, encodeChecks_eq, bind_assoc]⟩
  · exact ⟨_, rfl⟩

/-- The three coder commands that need a configuration begin with the two checks (43 R390, R393, R395). -/
theorem exists_ruleOf_eq_checkCounted_bind {i : Instr} (hi : i = .encode ∨ i = .verify ∨ i = .reconstruct)
    (s : State) : ∃ f, ruleOf i s = (checkCounted s >>= f) := by
  obtain rfl | rfl | rfl := hi
  · exact ⟨_, by simp only [ruleOf, encodeRule, encodeChecks, checkCounted, bind_assoc]; rfl⟩
  · exact ⟨_, by simp only [ruleOf, verifyRule, verifyChecks, checkCounted, bind_assoc]; rfl⟩
  · exact ⟨_, by simp only [ruleOf, reconstructRule, reconstructChecks, checkCounted, bind_assoc]; rfl⟩

/-- What a command reports where the two checks fail (40 R206, R207). -/
theorem exec_of_not_counted {i : Instr} (hi : i = .encode ∨ i = .verify ∨ i = .reconstruct) (s : State) :
    (s.configured = false → exec i s = .next (failed s 0x11#8 0)) ∧
    (s.configured = true → s.shardCount.toNat < total s → exec i s = .next (failed s 0x01#8 0)) ∧
    (s.configured = true → total s < s.shardCount.toNat → exec i s = .next (failed s 0x02#8 0)) := by
  obtain ⟨f, hrule⟩ := exists_ruleOf_eq_checkCounted_bind hi s
  have hexec (c : ErrCode) (h : checkCounted s = raise c 0) : exec i s = .next (failed s c.value 0) :=
    exec_of_raise (hrule.trans (bind_of_raise f h))
  refine ⟨fun hc => hexec .notConfigured ?_, fun hc hlt => hexec .tooFewShards ?_,
    fun hc hlt => hexec .tooManyShards ?_⟩
  · exact bind_of_raise _ (if_neg (by simp [hc]))
  · rw [checkCounted, bind_of_ok _ ((checkConfigured_ok s).2 hc), checkCount, if_pos hlt]
  · rw [checkCounted, bind_of_ok _ ((checkConfigured_ok s).2 hc), checkCount, if_neg hlt.not_gt, if_pos hlt]

/-! ### ENCODE and VERIFY -/

/-- The checks of VERIFY pass (43 R393). -/
theorem verifyChecks_of_ready {s : State} {len : Nat} (h : Ready s len) : verifyChecks s = .ok len := by
  obtain ⟨⟨hconf, hcount⟩, rfl, hsizes, hbounds⟩ := h
  exact (verifyChecks_ok ..).2 ⟨hconf, hcount, rfl, fun i hi => not_sizeBad_iff.1 (hsizes i hi),
    (checkBounds_ok ..).1 (checkBounds_pass hbounds)⟩

/-- The first length unlike slot 0's ends the checks of VERIFY (40 R210). -/
theorem verifyChecks_of_sizeBad {s : State} {k : Nat} (hc : counted s)
    (hk : FirstIn s.allSlots (sizeBad s (s.lenOf 0)) k) : verifyChecks s = raise .incorrectShardSize k := by
  have hsizes : checkSizes s (List.range s.nTotal.toNat) (s.lenOf 0) = raise .incorrectShardSize k :=
    checkSizes_raise (pairwise_allSlots s) hk
  have hdense : checkDenseSizes s = raise .incorrectShardSize k := by rw [checkDenseSizes, hsizes]; rfl
  rw [verifyChecks, bind_of_counted hc, bind_of_raise _ hdense]

/-- The first buffer past SHMEM_SIZE ends the checks of VERIFY (40 R208). -/
theorem verifyChecks_of_endsPast {s : State} {k : Nat} (hc : counted s)
    (hsizes : ∀ i, i < total s → ¬ sizeBad s (s.lenOf 0) i) (hk : FirstIn s.allSlots (endsPast s (s.lenOf 0)) k) :
    verifyChecks s = raise .addressError k := by
  have hdense : checkDenseSizes s = .ok (s.lenOf 0) :=
    (checkDenseSizes_ok ..).2 ⟨rfl, fun i hi => not_sizeBad_iff.1 (hsizes i hi)⟩
  rw [verifyChecks, bind_of_counted hc, bind_of_ok _ hdense, bind_of_raise _ (checkBounds_raise hk)]

/-- The first parity buffer that overlaps another ends ENCODE (40 R209). -/
theorem ruleOf_encode_of_overlaps {s : State} {len k : Nat} (h : Ready s len)
    (hk : FirstIn s.paritySlots (overlaps s len) k) : ruleOf .encode s = raise .bufferOverlap k := by
  have hchecks : encodeChecks s = raise .bufferOverlap k := by
    rw [encodeChecks_eq, bind_of_ok _ (verifyChecks_of_ready h),
      bind_of_raise _ (checkOverlap_raise (pairwise_paritySlots s) hk)]
  rw [ruleOf, encodeRule, bind_of_raise _ hchecks]

/-! ### RECONSTRUCT -/

/-- Fewer than D slots present end the checks of RECONSTRUCT (43 R395). -/
theorem reconstructChecks_of_few {s : State} (hc : counted s) (h : (presentList s).length < data s) :
    reconstructChecks s = raise .tooFewShards 0 := by
  rw [reconstructChecks, bind_of_counted hc]
  exact if_pos h

/-- The first present length unlike the first present slot's ends the checks of RECONSTRUCT (43 R395). -/
theorem reconstructChecks_of_sizeBad {s : State} {f k : Nat} (hc : counted s)
    (henough : data s ≤ (presentList s).length) (hf : IsFirst (here s) 0 (total s) f)
    (hk : FirstIn (s.presentSlots s.nTotal.toNat) (sizeBad s (s.lenOf f)) k) :
    reconstructChecks s = raise .incorrectShardSize k := by
  rw [reconstructChecks, bind_of_counted hc]
  refine (if_neg henough.not_gt).trans (bind_of_raise _ ?_)
  rw [headD_presentSlots hf]
  exact checkSizes_raise (pairwise_presentSlots s _) hk

/-- The checks (1) to (4) of RECONSTRUCT pass (43 R395). -/
theorem reconstructChecks_of_recoverable {s : State} {len : Nat} (h : Recoverable s len) :
    reconstructChecks s = .ok len := by
  obtain ⟨⟨hconf, hcount⟩, hsome, henough, hsizes⟩ := h
  have hgood (i : Nat) (hi : i ∈ s.presentSlots s.nTotal.toNat) : s.lenOf i ≠ 0 ∧ s.lenOf i = len :=
    not_sizeBad_iff.1 (hsizes i (mem_presentSlots.1 hi).1 (mem_presentSlots.1 hi).2)
  obtain ⟨f, rest, hlist⟩ : ∃ f rest, s.presentSlots s.nTotal.toNat = f :: rest :=
    List.exists_cons_of_length_pos (hsome.trans henough)
  have hfirst : s.lenOf ((s.presentSlots s.nTotal.toNat).headD 0) = len := by
    rw [hlist]
    exact (hgood f (hlist ▸ List.mem_cons_self)).2
  exact (reconstructChecks_ok ..).2 ⟨hconf, hcount, henough, hfirst, hgood⟩

/-- With a slot absent the present ones are not all (43 R395). -/
theorem length_presentSlots_ne {s : State} (h : ∃ i, i < total s ∧ ¬ here s i) :
    (s.presentSlots s.nTotal.toNat).length ≠ s.nTotal.toNat := by
  obtain ⟨i, hi, habsent⟩ := h
  intro hlen
  have hall : ∀ j ∈ List.range s.nTotal.toNat, s.isPresent j = true :=
    List.length_filter_eq_length_iff.1 (hlen.trans List.length_range.symm)
  exact habsent (hall i (List.mem_range.2 hi))

section

variable {s : State} {len : Nat}

/-- An error of the checks (1) to (4) ends RECONSTRUCT (43 R395). -/
theorem ruleOf_reconstruct_of_checks {c : ErrCode} {k : Nat} (h : reconstructChecks s = raise c k) :
    ruleOf .reconstruct s = raise c k := bind_of_raise _ h

/-- The first buffer past SHMEM_SIZE ends RECONSTRUCT where a slot is absent (43 R395). -/
theorem ruleOf_reconstruct_of_endsPast {k : Nat} (h : Recoverable s len) (habsent : ∃ i, i < total s ∧ ¬ here s i)
    (hk : FirstIn s.allSlots (endsPast s len) k) : ruleOf .reconstruct s = raise .addressError k := by
  rw [ruleOf, reconstructRule, bind_of_ok _ (reconstructChecks_of_recoverable h),
    if_neg (length_presentSlots_ne habsent), bind_of_raise _ (checkBounds_raise hk)]

/-- The first absent slot's buffer that overlaps another ends RECONSTRUCT (43 R395). -/
theorem ruleOf_reconstruct_of_overlaps {k : Nat} (h : Recoverable s len) (habsent : ∃ i, i < total s ∧ ¬ here s i)
    (hbounds : ∀ i, i < total s → ¬ endsPast s len i)
    (hk : FirstIn (s.absentSlots s.nTotal.toNat) (overlaps s len) k) :
    ruleOf .reconstruct s = raise .bufferOverlap k := by
  rw [ruleOf, reconstructRule, bind_of_ok _ (reconstructChecks_of_recoverable h),
    if_neg (length_presentSlots_ne habsent), bind_of_ok _ (checkBounds_pass hbounds),
    bind_of_raise _ (checkOverlap_raise (pairwise_absentSlots s _) hk)]

/-- A singular decode matrix ends RECONSTRUCT (43 R395). -/
theorem ruleOf_reconstruct_of_singular {c : Nat} (h : Recoverable s len) (habsent : ∃ i, i < total s ∧ ¬ here s i)
    (hbounds : ∀ i, i < total s → ¬ endsPast s len i)
    (hapart : ∀ i ∈ s.absentSlots s.nTotal.toNat, ¬ overlaps s len i)
    (hsing : s.decodeMatrix.invert = .singular c) : ruleOf .reconstruct s = raise .singularMatrix c := by
  rw [ruleOf, reconstructRule, bind_of_ok _ (reconstructChecks_of_recoverable h),
    if_neg (length_presentSlots_ne habsent), bind_of_ok _ (checkBounds_pass hbounds),
    bind_of_ok _ (checkOverlap_pass hapart), hsing]

end

end Sys2Proof.Machine

open Sys2Proof Sys2Proof.Machine Sys2Proof.Claims

/-- Settles O38: each check answers in its turn, with the first slot its scan finds. -/
theorem encodeAndVerifyReportFirstFailedCheck : Obligations.EncodeAndVerifyReportFirstFailedCheck := by
  intro i s hi
  obtain ⟨hconf, hfew, hmany⟩ := exec_of_not_counted (i := i) (by tauto) s
  obtain ⟨f, hrule⟩ := exists_ruleOf_eq_verifyChecks_bind hi s
  refine ⟨hconf, hfew, hmany, fun hc k hk => ?_, fun hc hsizes k hk => ?_, ?_⟩
  · exact exec_of_raise (hrule.trans (bind_of_raise f (verifyChecks_of_sizeBad hc (firstIn_allSlots hk))))
  · exact exec_of_raise (hrule.trans (bind_of_raise f (verifyChecks_of_endsPast hc hsizes (firstIn_allSlots hk))))
  · rintro rfl hready k hk
    exact exec_of_raise (ruleOf_encode_of_overlaps hready (firstIn_paritySlots hk))

/-- Settles O40: each check answers in its turn, with the first slot its scan finds. -/
theorem reconstructReportsFirstFailedCheck : Obligations.ReconstructReportsFirstFailedCheck := by
  intro s
  obtain ⟨hconf, hfew, hmany⟩ := exec_of_not_counted (i := .reconstruct) (by tauto) s
  refine ⟨hconf, hfew, hmany, fun hc hlt => ?_, fun hc _ henough f k hf hk => ?_, fun len hrec habsent =>
    ⟨fun k hk => ?_, fun hbounds => ⟨fun k hk => ?_, fun hapart c hsing => ?_⟩⟩⟩
  · exact exec_of_raise (ruleOf_reconstruct_of_checks (reconstructChecks_of_few hc hlt))
  · have hchecks := reconstructChecks_of_sizeBad hc henough hf (firstIn_presentSlots hk)
    exact exec_of_raise (ruleOf_reconstruct_of_checks hchecks)
  · exact exec_of_raise (ruleOf_reconstruct_of_endsPast hrec habsent (firstIn_allSlots hk))
  · exact exec_of_raise (ruleOf_reconstruct_of_overlaps hrec habsent hbounds (firstIn_absentSlots hk))
  · have hparted : ∀ i ∈ s.absentSlots s.nTotal.toNat, ¬ overlaps s len i := fun i hi =>
      hapart i (mem_absentSlots_iff_not_here.1 hi).1 (mem_absentSlots_iff_not_here.1 hi).2
    exact exec_of_raise (ruleOf_reconstruct_of_singular hrec habsent hbounds hparted hsing)

end

section
/-! SUPPORT. The field by the powers of the generator: the tables, the product as a sum of exponents, and from it the
quotient, the power and the laws. -/

namespace Sys2Proof.Machine

open Sys2Proof.Claims

/-! ### The tables -/

/-- EXP's recurrence (41 R252). -/
theorem expAt_succ : ∀ i, i < 254 → expAt (i + 1) = xtime (expAt i) := by decide +kernel

/-- The recurrence closes: the powers of the generator have period 255 (41 R252). -/
theorem xtime_expAt_last : xtime (expAt 254) = expAt 0 := by decide +kernel

/-- Every nonzero element is the entry of EXP that its logarithm names (41 R251). -/
theorem logAt_spec : ∀ a : Byte, a ≠ 0#8 → logAt a < 255 ∧ expAt (logAt a) = a := by decide +kernel

/-- LOG undoes EXP, so no element stands twice among the first 255 entries (41 R251). -/
theorem logAt_expAt : ∀ i, i < 255 → logAt (expAt i) = i := by decide +kernel

/-- EXP's recurrence over all exponents, taken modulo 255 (41 R252). -/
theorem xtime_expAt_mod (i : Nat) : xtime (expAt (i % 255)) = expAt ((i + 1) % 255) := by
  obtain h | h : i % 255 < 254 ∨ i % 255 = 254 := by omega
  · rw [← expAt_succ _ h]
    congr 1
    omega
  · rw [h, xtime_expAt_last, show (i + 1) % 255 = 0 by omega]

/-- A nonzero element is the power of the generator at its logarithm (41 R251). -/
theorem expAt_logAt_mod {a : Byte} (h : a ≠ 0#8) : expAt (logAt a % 255) = a := by
  obtain ⟨hlt, ha⟩ := logAt_spec a h
  rw [Nat.mod_eq_of_lt hlt, ha]

/-- Every element is 0 or a power of the generator (41 R251, R252). -/
theorem eq_zero_or_exists_expAt (a : Byte) : a = 0#8 ∨ ∃ i, a = expAt (i % 255) := by
  by_cases h : a = 0#8
  · exact .inl h
  · exact .inr ⟨logAt a, (expAt_logAt_mod h).symm⟩

/-! ### The product -/

/-- The shift-and-add loop commutes with `xtime` of its running values (41 R254). -/
theorem gfMulLoop_xtime (b : Byte) (ks : List Nat) (x r : Byte) :
    gfMulLoop b ks (xtime x) (xtime r) = xtime (gfMulLoop b ks x r) := by
  induction ks generalizing x r with
  | nil => rfl
  | cons k ks ih =>
    rw [gfMulLoop, gfMulLoop, ← xtime_xor, ← ih]
    split_ifs <;> rfl

/-- `xtime` comes out of a product (41 R252, R254). -/
theorem gfMul_xtime_left (a b : Byte) : gfMul (xtime a) b = xtime (gfMul a b) := gfMulLoop_xtime b _ a 0#8

/-- The shift-and-add loop over a sum of multipliers is the sum of the loops (41 R254). -/
theorem gfMulLoop_xor (b c : Byte) (ks : List Nat) (x r t : Byte) :
    gfMulLoop (b ^^^ c) ks x (r ^^^ t) = gfMulLoop b ks x r ^^^ gfMulLoop c ks x t := by
  induction ks generalizing x r t with
  | nil => rfl
  | cons k ks ih =>
    rw [gfMulLoop, gfMulLoop, gfMulLoop, ← ih, BitVec.getLsbD_xor]
    congr 1
    cases b.getLsbD k <;> cases c.getLsbD k
    · rfl
    · exact BitVec.xor_assoc ..
    · exact (by ac_rfl : r ^^^ t ^^^ x = r ^^^ x ^^^ t)
    · calc r ^^^ t = r ^^^ t ^^^ (x ^^^ x) := by rw [BitVec.xor_self, BitVec.xor_zero]
        _ = r ^^^ x ^^^ (t ^^^ x) := by ac_rfl

/-- The product distributes over the sum (41 R258). -/
theorem gfMul_xor_right (a b c : Byte) : gfMul a (b ^^^ c) = gfMul a b ^^^ gfMul a c :=
  gfMulLoop_xor b c _ a 0#8 0#8

/-- 1 is neutral on the left (41 R258). -/
theorem gfMul_one_left : ∀ b : Byte, gfMul 1#8 b = b := by decide +kernel

/-- Nothing but zeros is summed where the shifted operand is 0 (41 R254). -/
theorem gfMul_zero_left (b : Byte) : gfMul 0#8 b = 0#8 := by
  have hx : xtime 0#8 = 0#8 := rfl
  simp [gfMul, gfMulLoop, hx]

/-- Nothing is summed where the multiplier is 0 (41 R258). -/
theorem gfMul_zero_right (a : Byte) : gfMul a 0#8 = 0#8 := by simp [gfMul, gfMulLoop]

/-- The product adds exponents: multiplying by a power of the generator is that many times `xtime` (41 R254). -/
theorem gfMul_expAt (i j : Nat) : gfMul (expAt (i % 255)) (expAt (j % 255)) = expAt ((i + j) % 255) := by
  induction i with
  | zero =>
    rw [Nat.zero_add]
    exact gfMul_one_left _
  | succ i ih => rw [← xtime_expAt_mod, gfMul_xtime_left, ih, xtime_expAt_mod, Nat.add_right_comm]

/-- The shift-and-add form and the table form are one product (41 R254). -/
theorem gfMul_eq_gfMulTable (a b : Byte) : gfMul a b = gfMulTable a b := by
  unfold gfMulTable
  split_ifs with h
  · obtain rfl | rfl := h
    · exact gfMul_zero_left b
    · exact gfMul_zero_right a
  · obtain ⟨ha, hb⟩ := not_or.1 h
    rw [← gfMul_expAt, expAt_logAt_mod ha, expAt_logAt_mod hb]

/-- The product is commutative (41 R258). -/
theorem gfMul_comm (a b : Byte) : gfMul a b = gfMul b a := by
  simp only [gfMul_eq_gfMulTable, gfMulTable, or_comm, Nat.add_comm]

/-- The product is associative (41 R258). -/
theorem gfMul_assoc (a b c : Byte) : gfMul (gfMul a b) c = gfMul a (gfMul b c) := by
  obtain rfl | ⟨i, rfl⟩ := eq_zero_or_exists_expAt a
  · simp only [gfMul_zero_left]
  obtain rfl | ⟨j, rfl⟩ := eq_zero_or_exists_expAt b
  · simp only [gfMul_zero_left, gfMul_zero_right]
  obtain rfl | ⟨k, rfl⟩ := eq_zero_or_exists_expAt c
  · simp only [gfMul_zero_right]
  simp only [gfMul_expAt, Nat.add_assoc]

/-- 1 is neutral on the right (41 R258). -/
theorem gfMul_one_right (a : Byte) : gfMul a 1#8 = a := (gfMul_comm a _).trans (gfMul_one_left a)

/-- The product with 2 is `xtime` (41 R258). -/
theorem gfMul_two_right (a : Byte) : gfMul a 2#8 = xtime a := by
  calc gfMul a 2#8 = gfMul (xtime 1#8) a := gfMul_comm a _
    _ = xtime a := by rw [gfMul_xtime_left, gfMul_one_left]

/-! ### The quotient -/

/-- The quotient by a nonzero divisor, in its table form (41 R255). -/
theorem gfDiv_of_ne_zero (a : Byte) {b : Byte} (hb : b ≠ 0#8) :
    gfDiv a b = some (if a = 0#8 then 0#8 else expAt ((logAt a + 255 - logAt b) % 255)) := by
  rw [gfDiv, if_neg hb]
  split_ifs <;> rfl

/-- A quotient times the divisor is the dividend (41 R255). -/
theorem gfMul_of_gfDiv {a b c : Byte} (h : gfDiv a b = some c) : gfMul c b = a := by
  have hb : b ≠ 0#8 := fun hb => by simp [(gfDiv_none a b).2 hb] at h
  rw [gfDiv_of_ne_zero a hb, Option.some.injEq] at h
  subst h
  split_ifs with ha
  · rw [gfMul_zero_left, ha]
  · obtain ⟨hlt, -⟩ := logAt_spec b hb
    calc gfMul (expAt ((logAt a + 255 - logAt b) % 255)) b
        = gfMul (expAt ((logAt a + 255 - logAt b) % 255)) (expAt (logAt b % 255)) := by rw [expAt_logAt_mod hb]
      _ = expAt (logAt a % 255) := by
        rw [gfMul_expAt]
        congr 1
        omega
      _ = a := expAt_logAt_mod ha

/-- A nonzero element has its quotient of 1 as inverse (41 R258). -/
theorem exists_inverse {a : Byte} (ha : a ≠ 0#8) : ∃ v, gfDiv 1#8 a = some v ∧ gfMul a v = 1#8 :=
  ⟨_, gfDiv_of_ne_zero _ ha, (gfMul_comm ..).trans (gfMul_of_gfDiv (gfDiv_of_ne_zero _ ha))⟩

/-- A nonzero factor cancels (41 R255). -/
theorem gfMul_right_cancel {b c d : Byte} (hb : b ≠ 0#8) (h : gfMul c b = gfMul d b) : c = d := by
  obtain ⟨v, -, hv⟩ := exists_inverse hb
  have key (x : Byte) : gfMul (gfMul x b) v = x := by rw [gfMul_assoc, hv, gfMul_one_right]
  rw [← key c, h, key]

/-! ### The power -/

/-- A power of a power of the generator multiplies the exponents (41 R256). -/
theorem power_expAt (i n : Nat) : power (expAt (i % 255)) n = expAt ((i * n) % 255) := by
  induction n with
  | zero => rfl
  | succ n ih => rw [power, ih, gfMul_expAt, Nat.mul_succ]

/-- The table form of the power is the repeated product (41 R256). -/
theorem power_eq_gfExp (a : Byte) (n : Nat) : power a n = gfExp a n := by
  cases n with
  | zero => rfl
  | succ n =>
    rw [gfExp, if_neg n.succ_ne_zero]
    split_ifs with ha
    · rw [power, ha, gfMul_zero_right]
    · rw [← power_expAt, expAt_logAt_mod ha]

/-- A power of a sum is the product of the powers (41 R258). -/
theorem power_add (a : Byte) (m n : Nat) : power a (m + n) = gfMul (power a m) (power a n) := by
  induction n with
  | zero => exact (gfMul_one_right _).symm
  | succ n ih => rw [← Nat.add_assoc, power, power, ih, gfMul_assoc]

/-- The multiplicative group has 255 elements (41 R258). -/
theorem gfExp_255 {a : Byte} (ha : a ≠ 0#8) : gfExp a 255 = 1#8 := by
  rw [gfExp, if_neg (by decide), if_neg ha, Nat.mul_mod_left]
  rfl

/-! ### GF_DIV -/

/-- A divisor 0 ends GF_DIV (41 R273). -/
theorem ruleOf_gfDiv_zero {s : State} (h : s.aluB = 0#8) : ruleOf .gfDiv s = raise .divideByZero 0 := by
  rw [ruleOf, gfDivRule, (gfDiv_none ..).2 h]

/-- GF_DIV writes the quotient where there is one (41 R273). -/
theorem ruleOf_gfDiv_some {s : State} {c : Byte} (h : gfDiv s.aluA s.aluB = some c) :
    ruleOf .gfDiv s = .ok (s.setAluR c) := by
  rw [ruleOf, gfDivRule, h]

end Sys2Proof.Machine

open Sys2Proof Sys2Proof.Machine Sys2Proof.Claims

/-- Settles O17: both rules write the exclusive or. -/
theorem gfAddAndGfSub : Obligations.GfAddAndGfSub :=
  ⟨rfl, rfl, fun _ => ⟨exec_of_ok rfl, exec_of_ok rfl⟩⟩

/-- Settles O18: the shift-and-add product is the table's. -/
theorem gfMulIsTheTableProduct : Obligations.GfMulIsTheTableProduct := by
  refine ⟨rfl, fun s => ?_⟩
  have hrule : ruleOf .gfMul s = .ok (s.setAluR (gfMulTable s.aluA s.aluB)) := by rw [ruleOf, gfMul_eq_gfMulTable]
  exact exec_of_ok hrule

/-- Settles O19: the table's quotient times the divisor is the dividend, and a nonzero divisor cancels. -/
theorem gfDivIsTheUniqueQuotient : Obligations.GfDivIsTheUniqueQuotient := by
  refine ⟨rfl, fun s => ⟨fun hb => exec_of_raise (ruleOf_gfDiv_zero hb), fun hb => ?_⟩⟩
  have hdiv := gfDiv_of_ne_zero s.aluA hb
  have hmul := gfMul_of_gfDiv hdiv
  exact ⟨_, exec_of_ok (ruleOf_gfDiv_some hdiv), hmul, fun d hd => gfMul_right_cancel hb (hd.trans hmul.symm), rfl⟩

/-- Settles O20: the table's power is the repeated product. -/
theorem gfExpIsRepeatedMultiplication : Obligations.GfExpIsRepeatedMultiplication := by
  refine ⟨rfl, fun s => ?_, power_eq_gfExp⟩
  have hrule : ruleOf .gfExp s = .ok (s.setAluR (power s.aluA s.aluN.toNat)) := by rw [ruleOf, power_eq_gfExp]
  exact exec_of_ok hrule

/-- Settles O21: the laws of the product hold of exponents, and distributivity of the shift-and-add loop. -/
theorem fieldLaws : Obligations.FieldLaws := by
  refine ⟨fun a b c => ⟨BitVec.xor_comm a b, BitVec.xor_assoc a b c⟩, gfMul_comm, gfMul_assoc, gfMul_xor_right,
    fun a => ⟨gfMul_one_right a, gfMul_zero_right a, gfMul_two_right a⟩,
    fun a ha => ⟨exists_inverse ha, gfExp_255 ha⟩, fun a m n => ?_⟩
  simp only [← power_eq_gfExp, power_add]

/-- Settles O22: EXP follows its recurrence, and LOG and EXP undo each other. -/
theorem fieldTables : Obligations.FieldTables := by
  refine ⟨by decide +kernel, by decide +kernel, rfl, rfl, expAt_succ, rfl, fun a ha => ?_⟩
  obtain ⟨hlt, hexp⟩ := logAt_spec a ha
  refine ⟨hlt, hexp, fun i hi h => ?_⟩
  rw [← h, logAt_expAt i hi]

end

section
/-! SUPPORT. The commands that build matrices: their words, what each of their checks answers, and the elements they
write. -/

namespace Sys2Proof

/-- The word formula of the commands that name one matrix register (42 R320). -/
theorem word_of_one_reg (op : BitVec 8) (d : MatReg) :
    ({ Fields.ofOp op with md := regBits d } : Fields).word = op.setWidth 32 ||| BitVec.ofNat 32 d.val <<< 8 := by
  simp [word_eq_or, Fields.ofOp, setWidth_regBits]

/-- The word formula of the commands that name two matrix registers (42 R325, R326). -/
theorem word_of_two_regs (op : BitVec 8) (d a : MatReg) :
    ({ Fields.ofOp op with md := regBits d, ma := regBits a } : Fields).word =
      op.setWidth 32 ||| BitVec.ofNat 32 d.val <<< 8 ||| BitVec.ofNat 32 a.val <<< 10 := by
  simp [word_eq_or, Fields.ofOp, setWidth_regBits]

/-- A command's word, in whatever form, decodes to the command (30 R152, R154). -/
theorem decode_of_encode {i : Instr} {w : Word} (h : encode i = w) : decode w = .ok i := h ▸ decode_encode i

end Sys2Proof

namespace Sys2Proof.Machine

open Sys2Proof.Claims

/-! ### Elements -/

/-- The list form of a field sum is the indexed form (00 R17). -/
theorem gfSum_map_range (f : Nat → Byte) (n : Nat) : gfSum ((List.range n).map f) = fieldSum f n := by
  induction n with
  | zero => rfl
  | succ n ih => simp [List.range_succ, gfSum_append, ih, gfSum, fieldSum]

/-- The elements of a built matrix (42 R300). -/
theorem elems_build (r c : Nat) (f : Nat → Nat → Byte) : Elems (Mat.build r c f) r c f :=
  ⟨rfl, rfl, fun _ _ hi hj => at_build f hi hj⟩

/-- The elements of a Vandermonde matrix as repeated products (42 R311). -/
theorem elems_vandermonde (r c : Nat) : Elems (Mat.vandermonde r c) r c fun i j => power (BitVec.ofNat 8 i) j := by
  simp only [power_eq_gfExp]
  exact elems_build ..

/-- The elements of a product (42 R312). -/
theorem elems_product (a b : Mat) : Elems (a.product b) a.rows b.cols
    fun i j => fieldSum (fun k => gfMul (a.at i k) (b.at k j)) a.cols := by
  simp only [← gfSum_map_range]
  exact elems_build ..

/-- The elements of a submatrix of listed rows and columns (42 R314). -/
theorem elems_submatrix (a : Mat) (f g : Nat → Nat) (r c : Nat) :
    Elems (a.submatrix ((List.range r).map f) ((List.range c).map g)) r c fun i j => a.at (f i) (g j) := by
  refine ⟨by simp, by simp, fun i j hi hj => ?_⟩
  rw [Mat.submatrix, at_build _ (by simpa using hi) (by simpa using hj)]
  simp [List.getD_eq_getElem?_getD, hi, hj]

/-! ### Checks -/

/-- A size out of range is reported (42 R303). -/
theorem checkDims_raise {r c : Nat} (h : ¬ dimsFit r c) : checkDims r c = raise .invalidDimension 0 :=
  if_pos (by simp only [matMaxRows, matMaxCols]; omega)

/-- Without a configuration the check of it reports that (40 R206). -/
theorem checkConfigured_raise {s : State} (h : s.configured = false) : checkConfigured s = raise .notConfigured 0 :=
  if_neg (ne_true_of_eq_false h)

/-- The first row-list entry out of range is reported by its position (42 R325). -/
theorem checkIndices_raise_row {s : State} {a : Mat} {r c k : Nat}
    (h : IsFirst (fun i => a.rows ≤ s.rowIndex i) 0 r k) : checkIndices s a r c = raise .indexOutOfRange k := by
  obtain ⟨-, hk, hbad, hmin⟩ := h
  have hfirst : FirstIn (List.range r) (fun i => a.rows ≤ s.rowIndex i) k :=
    ⟨List.mem_range.2 hk, hbad, fun j _ hjk => hmin j hjk j.zero_le⟩
  rw [checkIndices, find?_eq_some_of_firstIn List.pairwise_lt_range hfirst fun i => by simp]

/-- Then the first column-list entry out of range is, with bit 31 set (42 R325). -/
theorem checkIndices_raise_col {s : State} {a : Mat} {r c k : Nat} (hrows : ∀ i, i < r → s.rowIndex i < a.rows)
    (hc : c ≤ 512) (h : IsFirst (fun j => a.cols ≤ s.colIndex j) 0 c k) :
    checkIndices s a r c = raise .indexOutOfRange (0x80000000 + k) := by
  obtain ⟨-, hk, hbad, hmin⟩ := h
  have hnone : (List.range r).find? (fun i => decide (s.rowIndex i ≥ a.rows)) = none := by
    simpa [List.find?_eq_none] using hrows
  have hfirst : FirstIn (List.range c) (fun j => a.cols ≤ s.colIndex j) k :=
    ⟨List.mem_range.2 hk, hbad, fun j _ hjk => hmin j hjk j.zero_le⟩
  have hor : 0x80000000 + k = 0x80000000 ||| k :=
    Nat.two_pow_add_eq_or_of_lt (i := 31) (hk.trans_le (hc.trans (by decide))) 1
  rw [checkIndices, hnone, find?_eq_some_of_firstIn List.pairwise_lt_range hfirst fun j => by simp, hor]

/-! ### MAT_MUL and MAT_SUBMATRIX -/

section

variable (d : MatReg) {a b : MatReg} {s : State}

/-- MAT_MUL with an operand that holds no matrix (42 R323). -/
theorem ruleOf_matMul_undefined (h : (s.mat a).rows = 0 ∨ (s.mat b).rows = 0) :
    ruleOf (.matMul d a b) s = raise .invalidDimension 0 := by
  rw [ruleOf, matMulRule]
  by_cases ha : (s.mat a).rows = 0
  · exact bind_of_raise _ (definedMat_undefined ha)
  · rw [bind_of_ok _ (definedMat_defined ha)]
    exact bind_of_raise _ (definedMat_undefined (h.resolve_left ha))

/-- MAT_MUL with two matrices: the check left to do (42 R323). -/
theorem ruleOf_matMul_defined (ha : (s.mat a).rows ≠ 0) (hb : (s.mat b).rows ≠ 0) : ruleOf (.matMul d a b) s =
    if (s.mat a).cols ≠ (s.mat b).rows then raise .dimensionMismatch 0
    else .ok (s.setMat d ((s.mat a).product (s.mat b))) := by
  rw [ruleOf, matMulRule, bind_of_ok _ (definedMat_defined ha), bind_of_ok _ (definedMat_defined hb)]

/-- MAT_SUBMATRIX with a matrix and a size in range: the checks of the two lists are left (42 R325). -/
theorem ruleOf_matSubmatrix_defined (ha : (s.mat a).rows ≠ 0) (hdims : dimsFit s.matArgRows.toNat s.matArgCols.toNat) :
    ruleOf (.matSubmatrix d a) s = (checkIndices s (s.mat a) s.matArgRows.toNat s.matArgCols.toNat >>= fun _ =>
      .ok (s.setMat d ((s.mat a).submatrix ((List.range s.matArgRows.toNat).map s.rowIndex)
        ((List.range s.matArgCols.toNat).map s.colIndex)))) := by
  rw [ruleOf, matSubmatrixRule, bind_of_ok _ (definedMat_defined ha), bind_of_ok _ ((checkDims_ok ..).2 hdims)]

/-! ### MAT_INVERT -/

/-- MAT_INVERT of a square matrix that `invert` finds singular (42 R326). -/
theorem exec_matInvert_singular {c : Nat} (ha : (s.mat a).rows ≠ 0) (hsq : (s.mat a).rows = (s.mat a).cols)
    (h : (s.mat a).invert = .singular c) : exec (.matInvert d a) s = .next (failed s 0x05#8 c) := by
  have hrule : ruleOf (.matInvert d a) s = raise .singularMatrix c := by
    rw [ruleOf, matInvertRule, bind_of_ok _ (definedMat_defined ha), if_neg (not_not.2 hsq), h]
  exact exec_of_raise hrule

/-- MAT_INVERT of a square matrix that `invert` finds an inverse of (42 R326). -/
theorem exec_matInvert_matrix {x : Mat} (ha : (s.mat a).rows ≠ 0) (hsq : (s.mat a).rows = (s.mat a).cols)
    (h : (s.mat a).invert = .matrix x) :
    exec (.matInvert d a) s = .next (finished { s with mats := s.mats.set d.val x }) := by
  have hrule : ruleOf (.matInvert d a) s = .ok (s.setMat d x) := by
    rw [ruleOf, matInvertRule, bind_of_ok _ (definedMat_defined ha), if_neg (not_not.2 hsq), h]
  exact exec_of_ok hrule

end

end Sys2Proof.Machine

open Sys2Proof Sys2Proof.Machine Sys2Proof.Claims

/-- Settles O23: the size check answers first. -/
theorem matNewGivesZeros : Obligations.MatNewGivesZeros := by
  intro d s
  refine ⟨decode_of_encode (word_of_one_reg 0x30#8 d), fun h => ⟨_, elems_build .., exec_of_ok ?_⟩,
    fun h => exec_of_raise (c := .invalidDimension) (bind_of_raise _ (checkDims_raise h))⟩
  exact bind_of_ok _ ((checkDims_ok ..).2 h)

/-- Settles O24: the size check, which reads no column count, answers first. -/
theorem matIdentityGivesIdentity : Obligations.MatIdentityGivesIdentity := by
  intro d s
  refine ⟨decode_of_encode (word_of_one_reg 0x31#8 d), fun h => ⟨_, elems_build .., exec_of_ok (if_neg ?_)⟩,
    fun h => exec_of_raise (c := .invalidDimension) (if_pos ?_)⟩ <;>
  · rw [matMaxRows]
    omega

/-- Settles O25: the size check answers first, and the table's powers are repeated products. -/
theorem matVandermondeGivesPowers : Obligations.MatVandermondeGivesPowers := by
  intro d s
  refine ⟨decode_of_encode (word_of_one_reg 0x32#8 d), fun h => ⟨_, elems_vandermonde .., exec_of_ok ?_⟩,
    fun h => exec_of_raise (c := .invalidDimension) (bind_of_raise _ (checkDims_raise h))⟩
  exact bind_of_ok _ ((checkDims_ok ..).2 h)

/-- Settles O26: each check answers in its turn. -/
theorem matMulGivesProduct : Obligations.MatMulGivesProduct := by
  intro d a b s
  refine ⟨decode_of_encode (word_of_three_regs 0x33#8 d a b), fun h => exec_of_raise (ruleOf_matMul_undefined d h),
    fun ha hb hne => ?_, fun ha hb heq => ⟨_, elems_product (s.mat a) (s.mat b), ?_⟩⟩
  · exact exec_of_raise ((ruleOf_matMul_defined d ha hb).trans (if_pos hne))
  · exact exec_of_ok ((ruleOf_matMul_defined d ha hb).trans (if_neg (not_not.2 heq)))

/-- Settles O28: each check answers in its turn, the lists' with the first position their scans find. -/
theorem matSubmatrixPicksRowsAndColumns : Obligations.MatSubmatrixPicksRowsAndColumns := by
  intro d a s
  refine ⟨decode_of_encode (word_of_two_regs 0x35#8 d a),
    fun ha => exec_of_raise (c := .invalidDimension) (bind_of_raise _ (definedMat_undefined ha)), fun ha hdims => ?_,
    fun ha hdims => ⟨fun k hk => ?_, fun hrows => ⟨fun k hk => ?_, fun hcols => ?_⟩⟩⟩
  · exact exec_of_raise (c := .invalidDimension)
      ((bind_of_ok _ (definedMat_defined ha)).trans (bind_of_raise _ (checkDims_raise hdims)))
  · exact exec_of_raise ((ruleOf_matSubmatrix_defined d ha hdims).trans (bind_of_raise _ (checkIndices_raise_row hk)))
  · have hcheck := checkIndices_raise_col hrows hdims.2.2.2 hk
    exact exec_of_raise ((ruleOf_matSubmatrix_defined d ha hdims).trans (bind_of_raise _ hcheck))
  · have hcheck := (checkIndices_ok ..).2 ⟨hrows, hcols⟩
    exact ⟨_, elems_submatrix .., exec_of_ok ((ruleOf_matSubmatrix_defined d ha hdims).trans (bind_of_ok _ hcheck))⟩

/-- Settles O29: each check answers in its turn, then `invert`. -/
theorem matInvertFollowsInvert : Obligations.MatInvertFollowsInvert := by
  intro d a s
  refine ⟨decode_of_encode (word_of_two_regs 0x36#8 d a),
    fun ha => exec_of_raise (c := .invalidDimension) (bind_of_raise _ (definedMat_undefined ha)), fun ha hne => ?_,
    fun ha hsq => ⟨fun _ => exec_matInvert_singular d ha hsq, fun _ => exec_matInvert_matrix d ha hsq⟩⟩
  exact exec_of_raise (c := .dimensionMismatch) ((bind_of_ok _ (definedMat_defined ha)).trans (if_pos hne))

/-- Settles O31: the configuration check answers first. -/
theorem matLoadCmCopiesCodingMatrix : Obligations.MatLoadCmCopiesCodingMatrix := by
  intro d s
  refine ⟨decode_of_encode (word_of_one_reg 0x37#8 d), fun h => ?_, fun h => ?_⟩
  · exact exec_of_raise (c := .notConfigured) (bind_of_raise _ (checkConfigured_raise h))
  · exact exec_of_ok (bind_of_ok _ ((checkConfigured_ok s).2 h))

end

section
/-! SUPPORT. Gauss-Jordan elimination: a matrix as a system of equations, whose solutions every row operation keeps. The
inverse and the failing column are read off the solutions. -/

namespace Sys2Proof.Machine

open Sys2Proof.Claims

/-! ### Field sums -/

theorem fieldSum_congr {f g : Nat → Byte} {n : Nat} (h : ∀ k, k < n → f k = g k) : fieldSum f n = fieldSum g n := by
  induction n with
  | zero => rfl
  | succ n ih => rw [fieldSum, fieldSum, ih fun k hk => h k (Nat.lt_succ_of_lt hk), h n n.lt_succ_self]

/-- A sum all of whose terms are 0. -/
theorem fieldSum_eq_zero {f : Nat → Byte} {n : Nat} (h : ∀ k, k < n → f k = 0#8) : fieldSum f n = 0#8 := by
  induction n with
  | zero => rfl
  | succ n ih => rw [fieldSum, ih fun k hk => h k (Nat.lt_succ_of_lt hk), h n n.lt_succ_self, BitVec.xor_self]

/-- A sum of sums, term by term. -/
theorem fieldSum_xor (f g : Nat → Byte) (n : Nat) :
    fieldSum (fun k => f k ^^^ g k) n = fieldSum f n ^^^ fieldSum g n := by
  induction n with
  | zero => exact BitVec.xor_self.symm
  | succ n ih =>
    rw [fieldSum, fieldSum, fieldSum, ih]
    ac_rfl

/-- A constant factor comes out of a sum (41 R258). -/
theorem fieldSum_gfMul_left (a : Byte) (f : Nat → Byte) (n : Nat) :
    fieldSum (fun k => gfMul a (f k)) n = gfMul a (fieldSum f n) := by
  induction n with
  | zero => exact (gfMul_zero_right a).symm
  | succ n ih => rw [fieldSum, fieldSum, ih, gfMul_xor_right]

/-- A sum splits into its first terms and the others. -/
theorem fieldSum_add (f : Nat → Byte) (m n : Nat) :
    fieldSum f (m + n) = fieldSum f m ^^^ fieldSum (fun k => f (m + k)) n := by
  induction n with
  | zero => exact BitVec.xor_zero.symm
  | succ n ih => rw [← Nat.add_assoc, fieldSum, ih, fieldSum, BitVec.xor_assoc]

/-- The terms of a double sum can be taken in either order. -/
theorem fieldSum_comm (f : Nat → Nat → Byte) (m n : Nat) :
    fieldSum (fun i => fieldSum (f i) n) m = fieldSum (fun j => fieldSum (fun i => f i j) m) n := by
  induction m with
  | zero => exact (fieldSum_eq_zero fun _ _ => rfl).symm
  | succ m ih => simp only [fieldSum, fieldSum_xor, ih]

/-- An element of the identity matrix (42 R310). -/
def delta (i j : Nat) : Byte := if i = j then 0x01#8 else 0x00#8

theorem delta_self (i : Nat) : delta i i = 1#8 := if_pos rfl

theorem delta_of_ne {i j : Nat} (h : i ≠ j) : delta i j = 0#8 := if_neg h

theorem delta_comm (i j : Nat) : delta i j = delta j i := by simp only [delta, eq_comm]

/-- A row of the identity matrix picks one term of a sum (42 R310). -/
theorem fieldSum_delta {i n : Nat} (f : Nat → Byte) (hi : i < n) :
    fieldSum (fun k => gfMul (delta i k) (f k)) n = f i := by
  induction n with
  | zero => omega
  | succ n ih =>
    rw [fieldSum]
    obtain h | rfl : i < n ∨ i = n := by omega
    · rw [ih h, delta_of_ne h.ne, gfMul_zero_left, BitVec.xor_zero]
    · rw [delta_self, gfMul_one_left, fieldSum_eq_zero fun k hk => by rw [delta_of_ne hk.ne', gfMul_zero_left],
        BitVec.zero_xor]

/-! ### Elements -/

theorem at_identity {n i j : Nat} (hi : i < n) (hj : j < n) : (Mat.identity n).at i j = delta i j := at_build _ hi hj

theorem at_swapRows {w : Mat} (p q : Nat) {i j : Nat} (hi : i < w.rows) (hj : j < w.cols) :
    (w.swapRows p q).at i j = w.at (Equiv.swap p q i) j := at_build _ hi hj

theorem at_scaleRow {w : Mat} (r : Nat) (s : Byte) {i j : Nat} (hi : i < w.rows) (hj : j < w.cols) :
    (w.scaleRow r s).at i j = if i = r then gfMul (w.at r j) s else w.at i j := at_build _ hi hj

theorem at_clearColumn {w : Mat} (r : Nat) {i j : Nat} (hi : i < w.rows) (hj : j < w.cols) :
    (w.clearColumn r).at i j = if i = r then w.at i j else w.at i j ^^^ gfMul (w.at i r) (w.at r j) := at_build _ hi hj

/-- An element of a matrix beside the identity matrix (42 R313, R315). -/
theorem at_augment_identity_left (a : Mat) {i j : Nat} (hi : i < a.rows) (hj : j < a.cols) :
    (a.augment (Mat.identity a.rows)).at i j = a.at i j :=
  (at_build _ hi (Nat.lt_add_right _ hj)).trans (if_pos hj)

/-- An element of the identity matrix beside a matrix (42 R313, R315). -/
theorem at_augment_identity_right (a : Mat) {i j : Nat} (hi : i < a.rows) (hj : j < a.rows) :
    (a.augment (Mat.identity a.rows)).at i (a.cols + j) = delta i j := by
  refine (at_build _ hi (Nat.add_lt_add_left hj _)).trans ?_
  rw [if_neg (by omega), Nat.add_sub_cancel_left, at_identity hi hj]

/-- An element of the right block of the working array (42 R315). -/
theorem at_rightBlock (w : Mat) {n i j : Nat} (hi : i < n) (hj : j < n) :
    (w.submatrix (List.range n) (List.range' n n)).at i j = w.at i (n + j) := by
  rw [Mat.submatrix, at_build _ (by simpa using hi) (by simpa using hj)]
  simp [List.getD_eq_getElem?_getD, hi, hj]

/-! ### Solutions of a system of equations -/

/-- Row `i` of `w` times the column `y`. -/
def Mat.rowDot (w : Mat) (y : Nat → Byte) (i : Nat) : Byte := fieldSum (fun k => gfMul (w.at i k) (y k)) w.cols

/-- `w` times the column `y` is 0. -/
def Mat.Solves (w : Mat) (y : Nat → Byte) : Prop := ∀ i, i < w.rows → w.rowDot y i = 0#8

/-- A row times a column of the identity matrix is an element of the row. -/
theorem rowDot_delta (w : Mat) (i : Nat) {j : Nat} (hj : j < w.cols) : w.rowDot (fun k => delta k j) i = w.at i j := by
  rw [Mat.rowDot, ← fieldSum_delta (fun k => w.at i k) hj]
  exact fieldSum_congr fun k _ => by rw [gfMul_comm, delta_comm]

/-- A row of an exchange gives what the row it came from gave (42 R315). -/
theorem rowDot_swapRows (w : Mat) (y : Nat → Byte) (p q : Nat) {i : Nat} (hi : i < w.rows) :
    (w.swapRows p q).rowDot y i = w.rowDot y (Equiv.swap p q i) :=
  fieldSum_congr fun k hk => by rw [at_swapRows p q hi hk]

/-- Scaling a row scales what it gives (42 R315). -/
theorem rowDot_scaleRow (w : Mat) (y : Nat → Byte) (r : Nat) (s : Byte) {i : Nat} (hi : i < w.rows) :
    (w.scaleRow r s).rowDot y i = if i = r then gfMul s (w.rowDot y r) else w.rowDot y i := by
  unfold Mat.rowDot
  split_ifs with h
  · rw [← fieldSum_gfMul_left]
    exact fieldSum_congr fun k hk => by rw [at_scaleRow r s hi hk, if_pos h, gfMul_comm _ s, gfMul_assoc]
  · exact fieldSum_congr fun k hk => by rw [at_scaleRow r s hi hk, if_neg h]

/-- Eliminating adds a multiple of what the pivot row gives (42 R315). -/
theorem rowDot_clearColumn (w : Mat) (y : Nat → Byte) (r : Nat) {i : Nat} (hi : i < w.rows) :
    (w.clearColumn r).rowDot y i =
      if i = r then w.rowDot y r else w.rowDot y i ^^^ gfMul (w.at i r) (w.rowDot y r) := by
  unfold Mat.rowDot
  split_ifs with h
  · exact fieldSum_congr fun k hk => by rw [at_clearColumn r hi hk, if_pos h, h]
  · rw [← fieldSum_gfMul_left, ← fieldSum_xor]
    exact fieldSum_congr fun k hk => by
      rw [at_clearColumn r hi hk, if_neg h, gfMul_comm, gfMul_xor_right, gfMul_comm _ (w.at i k), gfMul_comm (y k),
        gfMul_assoc]

/-- Exchanging rows keeps the solutions (42 R315). -/
theorem solves_swapRows {w : Mat} {p q : Nat} (hp : p < w.rows) (hq : q < w.rows) (y : Nat → Byte) :
    (w.swapRows p q).Solves y ↔ w.Solves y := by
  have hlt {i : Nat} (hi : i < w.rows) : Equiv.swap p q i < w.rows := by
    rw [Equiv.swap_apply_def]
    split_ifs <;> assumption
  refine ⟨fun h i hi => ?_, fun h i hi => ?_⟩
  · rw [← h _ (hlt hi), rowDot_swapRows w y p q (hlt hi), Equiv.swap_apply_self]
  · rw [rowDot_swapRows w y p q hi, h _ (hlt hi)]

/-- The pivot search keeps the solutions (42 R315). -/
theorem solves_pivot {w : Mat} {r : Nat} (hr : r < w.rows) (y : Nat → Byte) : (w.pivot r).Solves y ↔ w.Solves y := by
  obtain h | ⟨q, -, hq, -, -, h⟩ := pivot_cases w r <;> rw [h]
  exact solves_swapRows hr hq y

/-- Scaling a row by a nonzero element keeps the solutions (42 R315). -/
theorem solves_scaleRow (w : Mat) (r : Nat) {s : Byte} (hs : s ≠ 0#8) (y : Nat → Byte) :
    (w.scaleRow r s).Solves y ↔ w.Solves y := by
  have hzero (x : Byte) : gfMul s x = 0#8 ↔ x = 0#8 := by
    refine ⟨fun h => gfMul_right_cancel hs ?_, fun h => h ▸ gfMul_zero_right s⟩
    rw [gfMul_comm, h, gfMul_zero_left]
  refine forall₂_congr fun i hi => ?_
  rw [rowDot_scaleRow w y r s hi]
  split_ifs with h
  · rw [hzero, h]
  · rfl

/-- Eliminating a column keeps the solutions (42 R315). -/
theorem solves_clearColumn {w : Mat} {r : Nat} (hr : r < w.rows) (y : Nat → Byte) :
    (w.clearColumn r).Solves y ↔ w.Solves y := by
  constructor
  · intro h
    have hpivot : w.rowDot y r = 0#8 := by simpa [rowDot_clearColumn w y r hr] using h r hr
    intro i hi
    have hrow := h i hi
    rw [rowDot_clearColumn w y r hi, hpivot, gfMul_zero_right, BitVec.xor_zero] at hrow
    split_ifs at hrow with hir
    · rwa [hir]
    · exact hrow
  · intro h i hi
    rw [rowDot_clearColumn w y r hi, h r hr, h i hi, gfMul_zero_right, BitVec.xor_zero, ite_self]

/-! ### Columns that depend on the columns before them -/

/-- The coefficients of columns 0..c in the equation that makes column `c` the combination `f` of those before it. -/
def combination (c : Nat) (f : Nat → Byte) (k : Nat) : Byte := if k < c then f k else delta c k

/-- A row times such coefficients (42 R316). -/
theorem fieldSum_combination (g f : Nat → Byte) {c n : Nat} (hc : c < n) :
    fieldSum (fun k => gfMul (g k) (combination c f k)) n = fieldSum (fun k => gfMul (f k) (g k)) c ^^^ g c := by
  obtain ⟨m, rfl⟩ := Nat.exists_eq_add_of_lt hc
  have hbefore : fieldSum (fun k => gfMul (g k) (combination c f k)) c = fieldSum (fun k => gfMul (f k) (g k)) c :=
    fieldSum_congr fun k hk => by rw [combination, if_pos hk, gfMul_comm]
  have hafter : fieldSum (fun k => gfMul (g (c + 1 + k)) (combination c f (c + 1 + k))) m = 0#8 :=
    fieldSum_eq_zero fun k _ => by
      rw [combination, if_neg (by omega), delta_of_ne (by omega), gfMul_zero_right]
  rw [Nat.add_right_comm, fieldSum_add, hafter, BitVec.xor_zero, fieldSum, hbefore, combination,
    if_neg (lt_irrefl c), delta_self, gfMul_one_right]

/-- A column depends on the columns before it iff the equations have a solution that says so (42 R316). -/
theorem dependentColumn_iff_solves {w : Mat} {c : Nat} (hc : c < w.cols) :
    dependentColumn w c ↔ ∃ f, w.Solves (combination c f) := by
  refine exists_congr fun f => forall₂_congr fun i _ => ?_
  rw [Mat.rowDot, fieldSum_combination _ f hc, BitVec.xor_eq_zero_iff, eq_comm]

/-- Dependence of a column is a matter of the first columns alone. -/
theorem dependentColumn_congr {v w : Mat} {c : Nat} (hr : v.rows = w.rows)
    (h : ∀ i j, i < w.rows → j ≤ c → v.at i j = w.at i j) : dependentColumn v c ↔ dependentColumn w c := by
  refine exists_congr fun f => ?_
  rw [hr]
  refine forall₂_congr fun i hi => ?_
  rw [h i c hi le_rfl, fieldSum_congr fun k hk => by rw [h i k hi hk.le]]

/-- A column that depends on those before it still does so after a product from the left (42 R312). -/
theorem dependentColumn_product {a b : Mat} {c : Nat} (hdim : a.cols = b.rows) (hc : c < b.cols)
    (h : dependentColumn b c) : dependentColumn (a.product b) c := by
  obtain ⟨f, hf⟩ := h
  obtain ⟨-, -, hat⟩ := elems_product a b
  refine ⟨f, fun i hi => ?_⟩
  calc (a.product b).at i c
      = fieldSum (fun k => gfMul (a.at i k) (b.at k c)) a.cols := hat i c hi hc
    _ = fieldSum (fun k => fieldSum (fun j => gfMul (f j) (gfMul (a.at i k) (b.at k j))) c) a.cols :=
        fieldSum_congr fun k hk => by
          rw [hf k (hdim ▸ hk), ← fieldSum_gfMul_left]
          exact fieldSum_congr fun j _ => by rw [← gfMul_assoc, gfMul_comm (a.at i k), gfMul_assoc]
    _ = fieldSum (fun j => gfMul (f j) (fieldSum (fun k => gfMul (a.at i k) (b.at k j)) a.cols)) c := by
        rw [fieldSum_comm]
        exact fieldSum_congr fun j _ => fieldSum_gfMul_left ..
    _ = fieldSum (fun j => gfMul (f j) ((a.product b).at i j)) c :=
        fieldSum_congr fun j hj => by rw [hat i j hi (hj.trans hc)]

/-! ### Unit columns -/

/-- The first `r` columns of `w` are those of the identity matrix. -/
def Mat.UnitColumns (w : Mat) (r : Nat) : Prop := ∀ i j, i < w.rows → j < r → w.at i j = delta i j

theorem unitColumns_identity (n : Nat) : (Mat.identity n).UnitColumns n := fun _ _ hi hj => at_identity hi hj

/-- No unit column depends on the unit columns before it. -/
theorem not_dependentColumn_of_unitColumns {w : Mat} {r c : Nat} (h : w.UnitColumns r) (hc : c < r)
    (hrow : c < w.rows) : ¬ dependentColumn w c := by
  rintro ⟨f, hf⟩
  have hone : delta c c = 0#8 := by
    rw [← h c c hrow hc, hf c hrow]
    refine fieldSum_eq_zero fun k hk => ?_
    rw [h c k hrow (hk.trans hc), delta_of_ne hk.ne', gfMul_zero_right]
  rw [delta_self] at hone
  exact absurd hone (by decide)

/-- A column that is 0 from row r on depends on r unit columns before it. -/
theorem dependentColumn_of_unitColumns {w : Mat} {r : Nat} (h : w.UnitColumns r)
    (hzero : ∀ i, r ≤ i → i < w.rows → w.at i r = 0#8) : dependentColumn w r := by
  refine ⟨fun k => w.at k r, fun i hi => ?_⟩
  have hsum : fieldSum (fun k => gfMul (w.at k r) (w.at i k)) r = fieldSum (fun k => gfMul (delta i k) (w.at k r)) r :=
    fieldSum_congr fun k hk => by rw [h i k hi hk, gfMul_comm]
  rw [hsum]
  obtain hir | hir : i < r ∨ r ≤ i := lt_or_ge i r
  · rw [fieldSum_delta (fun k => w.at k r) hir]
  · rw [hzero i hir hi, fieldSum_eq_zero fun k hk => by rw [delta_of_ne (by omega), gfMul_zero_left]]

/-! ### Elimination -/

/-- Where the pivot search leaves a 0 on the diagonal, column r is 0 from row r on (42 R315). -/
theorem column_eq_zero_of_pivot {w : Mat} {r : Nat} (hr : r < w.rows) (hc : r < w.cols)
    (h : (w.pivot r).at r r = 0#8) : ∀ i, r ≤ i → i < w.rows → w.at i r = 0#8 := by
  unfold Mat.pivot at h
  split_ifs at h with hdiag
  · split at h
    next q hq =>
      rw [at_swapRows r q hr hc, Equiv.swap_apply_left] at h
      exact absurd h (by simpa using List.find?_some hq)
    next hnone =>
      intro i hri hi
      obtain rfl | hlt := eq_or_lt_of_le hri
      · exact hdiag
      · simpa using List.find?_eq_none.1 hnone i (List.mem_range'_1.2 (by omega))
  · exact absurd h hdiag

/-- The pivot search keeps the unit columns before it (42 R315). -/
theorem unitColumns_pivot {w : Mat} {r : Nat} (hr : r < w.rows) (hc : r < w.cols) (h : w.UnitColumns r) :
    (w.pivot r).UnitColumns r := by
  obtain hp | ⟨q, hrq, hq, -, -, hp⟩ := pivot_cases w r <;> rw [hp]
  · exact h
  · intro i j (hi : i < w.rows) hj
    rw [at_swapRows r q hi (hj.trans hc), Equiv.swap_apply_def]
    split_ifs with hir hiq
    · rw [h q j hq hj, delta_of_ne (by omega), delta_of_ne (by omega)]
    · rw [h r j hr hj, delta_of_ne (by omega), delta_of_ne (by omega)]
    · exact h i j hi hj

/-- Scaling row r keeps the unit columns before column r (42 R315). -/
theorem unitColumns_scaleRow {w : Mat} {r : Nat} (hc : r < w.cols) (s : Byte) (h : w.UnitColumns r) :
    (w.scaleRow r s).UnitColumns r := by
  intro i j (hi : i < w.rows) hj
  rw [at_scaleRow r s hi (hj.trans hc)]
  split_ifs with hir
  · rw [← hir, h i j hi hj, delta_of_ne (by omega), gfMul_zero_left]
  · exact h i j hi hj

/-- Eliminating column r with pivot 1 makes it one more unit column (42 R315). -/
theorem unitColumns_clearColumn {w : Mat} {r : Nat} (hr : r < w.rows) (hc : r < w.cols) (hpivot : w.at r r = 1#8)
    (h : w.UnitColumns r) : (w.clearColumn r).UnitColumns (r + 1) := by
  intro i j (hi : i < w.rows) hj
  rw [at_clearColumn r hi (by omega)]
  obtain hjr | rfl := Nat.lt_succ_iff_lt_or_eq.1 hj
  · rw [h i j hi hjr, h r j hr hjr, delta_of_ne hjr.ne', gfMul_zero_right, BitVec.xor_zero, ite_self]
  · split_ifs with hir
    · rw [hir, hpivot, delta_self]
    · rw [hpivot, gfMul_one_right, BitVec.xor_self, delta_of_ne hir]

/-- What elimination has done to `v` when it comes to column `r`: the dimensions and the solutions are those of `v`, and
the columns before `r` are unit columns (42 R315). -/
structure Eliminated (v : Mat) (r : Nat) (w : Mat) : Prop where
  rows : w.rows = v.rows
  cols : w.cols = v.cols
  solves : ∀ y, w.Solves y ↔ v.Solves y
  units : w.UnitColumns r

/-- One pass of the elimination's loop goes on to the next column (42 R315). -/
theorem eliminated_succ {v w : Mat} {r : Nat} {s : Byte} (h : Eliminated v r w) (hr : r < v.rows) (hc : r < v.cols)
    (hs : gfDiv 1#8 ((w.pivot r).at r r) = some s) :
    Eliminated v (r + 1) (((w.pivot r).scaleRow r s).clearColumn r) := by
  obtain ⟨hrows, hcols, hsolves, hunits⟩ := h
  rw [← hrows] at hr
  rw [← hcols] at hc
  obtain ⟨hprows, hpcols⟩ := dims_pivot w r
  have hone : gfMul s ((w.pivot r).at r r) = 1#8 := gfMul_of_gfDiv hs
  have hs0 : s ≠ 0#8 := by
    rintro rfl
    rw [gfMul_zero_left] at hone
    exact absurd hone (by decide)
  have hrp : r < (w.pivot r).rows := hprows ▸ hr
  have hcp : r < (w.pivot r).cols := hpcols ▸ hc
  refine ⟨hprows.trans hrows, hpcols.trans hcols, fun y => ?_, ?_⟩
  · have hclear := solves_clearColumn (w := (w.pivot r).scaleRow r s) hrp y
    rw [hclear, solves_scaleRow _ r hs0, solves_pivot hr, hsolves]
  · refine unitColumns_clearColumn hrp hcp ?_ (unitColumns_scaleRow hcp s (unitColumns_pivot hr hc hunits))
    rw [at_scaleRow r s hrp hcp, if_pos rfl, gfMul_comm, hone]

/-- What the elimination of `v` up to column `n` answers: the working array, or the first column that is 0 from its
pivot's row on (42 R315). -/
inductive GaussJordanAnswer (v : Mat) (n : Nat) : Solved → Prop
  | matrix {w : Mat} (h : Eliminated v n w) : GaussJordanAnswer v n (.matrix w)
  | singular {c : Nat} {w : Mat} (hc : c < n) (h : Eliminated v c w)
      (hzero : ∀ i, c ≤ i → i < w.rows → w.at i c = 0#8) : GaussJordanAnswer v n (.singular c)

/-- The loop of the elimination from column `r` on (42 R315). -/
theorem gaussJordan_answer {v w : Mat} {r k : Nat} (hr : r + k ≤ v.rows) (hc : r + k ≤ v.cols)
    (h : Eliminated v r w) : GaussJordanAnswer v (r + k) (gaussJordan w (List.range' r k)) := by
  induction k generalizing r w with
  | zero => exact .matrix h
  | succ k ih =>
    rw [List.range'_succ, gaussJordan]
    split
    next hnone =>
      have hzero := column_eq_zero_of_pivot (w := w) (by rw [h.rows]; omega) (by rw [h.cols]; omega)
        ((gfDiv_none ..).1 hnone)
      exact .singular (by omega) h hzero
    next s hs =>
      have hnext := ih (by omega) (by omega) (eliminated_succ h (by omega) (by omega) hs)
      rwa [Nat.add_right_comm] at hnext

/-! ### Inversion -/

/-- The column `u` above the column `v`. -/
def stacked (n : Nat) (u v : Nat → Byte) (k : Nat) : Byte := if k < n then u k else v (k - n)

/-- A row of two blocks times two stacked columns. -/
theorem rowDot_stacked {w : Mat} {n : Nat} (hw : w.cols = n + n) (u v : Nat → Byte) (i : Nat) :
    w.rowDot (stacked n u v) i =
      fieldSum (fun k => gfMul (w.at i k) (u k)) n ^^^ fieldSum (fun k => gfMul (w.at i (n + k)) (v k)) n := by
  have hu : fieldSum (fun k => gfMul (w.at i k) (stacked n u v k)) n = fieldSum (fun k => gfMul (w.at i k) (u k)) n :=
    fieldSum_congr fun k hk => by rw [stacked, if_pos hk]
  have hv : fieldSum (fun k => gfMul (w.at i (n + k)) (stacked n u v (n + k))) n =
      fieldSum (fun k => gfMul (w.at i (n + k)) (v k)) n :=
    fieldSum_congr fun k _ => by rw [stacked, if_neg (by omega), Nat.add_sub_cancel_left]
  rw [Mat.rowDot, hw, fieldSum_add, hu, hv]

/-- `x` solves every equation with the square matrix `a`: that `a` makes `v` of `u` says that `x` makes `u` of `v`. -/
def Mat.SolvedBy (a x : Mat) : Prop := ∀ u v : Nat → Byte,
  (∀ i, i < a.rows → a.rowDot u i = v i) ↔ ∀ i, i < a.rows → u i = x.rowDot v i

/-- What `invert` answers: a matrix that solves every equation, or the first column that depends on those before it
(42 R316). -/
inductive InvertAnswer (a : Mat) : Solved → Prop
  | matrix {x : Mat} (h : a.SolvedBy x) : InvertAnswer a (.matrix x)
  | singular {c : Nat} (hdep : dependentColumn a c) (hmin : ∀ k, k < c → ¬ dependentColumn a k) :
      InvertAnswer a (.singular c)

/-- Matrices built from the same elements are equal. -/
theorem build_congr {r c : Nat} {f g : Nat → Nat → Byte} (h : ∀ i j, i < r → j < c → f i j = g i j) :
    Mat.build r c f = Mat.build r c g := by
  rw [Mat.build, Mat.build, Mat.mk.injEq]
  refine ⟨rfl, rfl, List.map_congr_left fun i hi => List.map_congr_left fun j hj => ?_⟩
  exact h i j (List.mem_range.1 hi) (List.mem_range.1 hj)

/-- A product is the identity matrix where its elements are (42 R310, R312). -/
theorem product_eq_identity {a b : Mat} {n : Nat} (hr : a.rows = n) (hc : b.cols = n)
    (h : ∀ i j, i < n → j < n → a.rowDot (fun k => b.at k j) i = delta i j) : a.product b = Mat.identity n := by
  rw [Mat.product, hr, hc]
  exact build_congr fun i j hi hj => (gfSum_map_range ..).trans (h i j hi hj)

section

variable {a : Mat} (hsq : a.rows = a.cols)
include hsq

theorem cols_augment_identity : (a.augment (Mat.identity a.rows)).cols = a.rows + a.rows :=
  congrArg (· + a.rows) hsq.symm

/-- The equations of a square matrix beside the identity matrix say what the matrix makes of a column (42 R315). -/
theorem solves_augment_identity (u v : Nat → Byte) :
    (a.augment (Mat.identity a.rows)).Solves (stacked a.rows u v) ↔ ∀ i, i < a.rows → a.rowDot u i = v i := by
  refine forall₂_congr fun i (hi : i < a.rows) => ?_
  have hleft : fieldSum (fun k => gfMul ((a.augment (Mat.identity a.rows)).at i k) (u k)) a.rows = a.rowDot u i := by
    rw [hsq]
    exact fieldSum_congr fun k hk => by rw [← hsq, at_augment_identity_left a hi hk]
  have hright : fieldSum (fun k => gfMul ((a.augment (Mat.identity a.rows)).at i (a.rows + k)) (v k)) a.rows = v i := by
    rw [← fieldSum_delta v hi]
    exact fieldSum_congr fun k hk => by rw [← at_augment_identity_right a hi hk, ← hsq]
  rw [rowDot_stacked (cols_augment_identity hsq), hleft, hright, BitVec.xor_eq_zero_iff]

/-- Elimination keeps which columns of the matrix depend on those before them (42 R315). -/
theorem dependentColumn_of_eliminated {w : Mat} {r c : Nat} (h : Eliminated (a.augment (Mat.identity a.rows)) r w)
    (hc : c < a.rows) : dependentColumn w c ↔ dependentColumn a c := by
  have hca : c < a.cols := hsq ▸ hc
  have hcv : c < (a.augment (Mat.identity a.rows)).cols := Nat.lt_add_right _ hca
  have hleft : dependentColumn (a.augment (Mat.identity a.rows)) c ↔ dependentColumn a c :=
    dependentColumn_congr rfl fun i j hi hj => at_augment_identity_left a hi (hj.trans_lt hca)
  rw [← hleft, dependentColumn_iff_solves hcv, dependentColumn_iff_solves (h.cols ▸ hcv)]
  simp only [h.solves]

/-- The elimination that `invert` runs (42 R315). -/
theorem gaussJordan_augment_answer : GaussJordanAnswer (a.augment (Mat.identity a.rows)) a.rows
    (gaussJordan (a.augment (Mat.identity a.rows)) (List.range a.rows)) := by
  have h := gaussJordan_answer (v := a.augment (Mat.identity a.rows)) (r := 0) (k := a.rows) (Nat.zero_add _).le
    (by rw [cols_augment_identity hsq]; omega) ⟨rfl, rfl, fun _ => Iff.rfl, fun _ j _ hj => absurd hj j.not_lt_zero⟩
  rwa [Nat.zero_add, ← List.range_eq_range'] at h

/-- Once the left block is the identity matrix, the right one solves every equation with the matrix (42 R315). -/
theorem solvedBy_rightBlock {w : Mat} (h : Eliminated (a.augment (Mat.identity a.rows)) a.rows w) :
    a.SolvedBy (w.submatrix (List.range a.rows) (List.range' a.rows a.rows)) := by
  intro u v
  have hrows : w.rows = a.rows := h.rows
  rw [← solves_augment_identity hsq, ← h.solves, Mat.Solves, hrows]
  refine forall₂_congr fun i hi => ?_
  have hleft : fieldSum (fun k => gfMul (w.at i k) (u k)) a.rows = u i := by
    rw [← fieldSum_delta u hi]
    exact fieldSum_congr fun k hk => by rw [h.units i k (hrows ▸ hi) hk]
  have hright : (w.submatrix (List.range a.rows) (List.range' a.rows a.rows)).rowDot v i =
      fieldSum (fun k => gfMul (w.at i (a.rows + k)) (v k)) a.rows := by
    rw [Mat.rowDot, (dims_submatrix ..).2, List.length_range']
    exact fieldSum_congr fun k hk => by rw [at_rightBlock w hi hk]
  rw [rowDot_stacked (h.cols.trans (cols_augment_identity hsq)), hleft, hright, BitVec.xor_eq_zero_iff]

/-- `invert` answers a matrix that solves every equation, or the first dependent column (42 R315, R316). -/
theorem invert_answer : InvertAnswer a a.invert := by
  have h := gaussJordan_augment_answer hsq
  unfold Mat.invert
  generalize gaussJordan (a.augment (Mat.identity a.rows)) (List.range a.rows) = answer at h
  cases h with
  | matrix h => exact .matrix (solvedBy_rightBlock hsq h)
  | singular hc h hzero =>
    refine .singular ?_ fun k hk => ?_
    · exact (dependentColumn_of_eliminated hsq h hc).1 (dependentColumn_of_unitColumns h.units hzero)
    · rw [← dependentColumn_of_eliminated hsq h (hk.trans hc)]
      exact not_dependentColumn_of_unitColumns h.units hk (by rw [h.rows]; exact hk.trans hc)

/-- A matrix that `invert` answers is an inverse on both sides (42 R316). -/
theorem product_of_invert {x : Mat} (h : a.invert = .matrix x) :
    a.product x = Mat.identity a.rows ∧ x.product a = Mat.identity a.rows := by
  obtain ⟨hrows, hcols⟩ := dims_invert h
  have hanswer := invert_answer hsq
  rw [h] at hanswer
  obtain ⟨hx⟩ := hanswer
  refine ⟨product_eq_identity rfl hcols fun i j hi hj => ?_, product_eq_identity hrows hsq.symm fun i j hi hj => ?_⟩
  · refine (hx (fun k => x.at k j) fun k => delta k j).2 (fun k _ => ?_) i hi
    exact (rowDot_delta x k (hcols.symm ▸ hj)).symm
  · refine ((hx (fun k => delta k j) fun k => a.at k j).1 (fun k _ => ?_) i hi).symm
    exact rowDot_delta a k (hsq ▸ hj)

/-- A column that `invert` reports is the first that depends on those before it (42 R316). -/
theorem dependentColumn_of_invert {c : Nat} (h : a.invert = .singular c) :
    dependentColumn a c ∧ ∀ k, k < c → ¬ dependentColumn a k := by
  have hanswer := invert_answer hsq
  rw [h] at hanswer
  obtain - | ⟨hdep, hmin⟩ := hanswer
  exact ⟨hdep, hmin⟩

/-- No column of a matrix with a left inverse depends on those before it (42 R316). -/
theorem not_dependentColumn_of_leftInverse {c : Mat} {k : Nat} (hcols : c.cols = a.rows)
    (h : c.product a = Mat.identity a.rows) (hk : k < a.rows) : ¬ dependentColumn a k := by
  intro hdep
  have hid := dependentColumn_product hcols (hsq ▸ hk) hdep
  rw [h] at hid
  exact not_dependentColumn_of_unitColumns (unitColumns_identity a.rows) hk hk hid

/-- A left inverse keeps `invert` from finding the matrix singular (42 R316). -/
theorem exists_invert_of_leftInverse {c : Mat} (hcols : c.cols = a.rows) (h : c.product a = Mat.identity a.rows) :
    ∃ x, a.invert = .matrix x := by
  cases hinv : a.invert with
  | matrix x => exact ⟨x, rfl⟩
  | singular k =>
    obtain ⟨hdep, -⟩ := dependentColumn_of_invert hsq hinv
    exact absurd hdep (not_dependentColumn_of_leftInverse hsq hcols h (singular_lt hinv))

/-- `invert` reports the first column that depends on those before it, if there is one (42 R316). -/
theorem invert_of_dependentColumn {c : Nat} (hc : c < a.rows) (hdep : dependentColumn a c)
    (hmin : ∀ k, k < c → ¬ dependentColumn a k) : a.invert = .singular c := by
  cases hinv : a.invert with
  | matrix x =>
    have hleft := (product_of_invert hsq hinv).2
    exact absurd hdep (not_dependentColumn_of_leftInverse hsq (dims_invert hinv).2 hleft hc)
  | singular k =>
    obtain ⟨hk, hkmin⟩ := dependentColumn_of_invert hsq hinv
    obtain hlt | rfl | hlt := lt_trichotomy k c
    · exact absurd hk (hmin k hlt)
    · rfl
    · exact absurd hdep (hkmin c hlt)

end

end Sys2Proof.Machine

open Sys2Proof Sys2Proof.Machine Sys2Proof.Claims

/-- Settles O30: the matrix that elimination ends with solves every equation, so it is an inverse on both sides; a
matrix with a left inverse has no column that depends on those before it, where elimination would stop. -/
theorem matInvertInvertsTheInvertible : Obligations.MatInvertInvertsTheInvertible := by
  intro d a s h0 hsq
  constructor
  · rintro ⟨c, -, hc, hleft⟩
    obtain ⟨x, hx⟩ := exists_invert_of_leftInverse hsq hc hleft
    obtain ⟨hrows, hcols⟩ := dims_invert hx
    obtain ⟨hax, hxa⟩ := product_of_invert hsq hx
    exact ⟨x, hrows, hcols, hax, hxa, exec_matInvert_matrix d h0 hsq hx⟩
  · intro hnone
    cases hinv : (s.mat a).invert with
    | singular c => exact ⟨c, singular_lt hinv, exec_matInvert_singular d h0 hsq hinv⟩
    | matrix x =>
      obtain ⟨hrows, hcols⟩ := dims_invert hinv
      exact absurd ⟨x, hrows, hcols, (product_of_invert hsq hinv).2⟩ hnone

/-- Settles O60: elimination keeps which columns depend on those before them, and stops at the first. -/
theorem matInvertReportsTheFirstDependentColumn : Obligations.MatInvertReportsTheFirstDependentColumn := by
  intro d a s c h0 hsq hc hdep hmin
  exact exec_matInvert_singular d h0 hsq (invert_of_dependentColumn hsq (hsq ▸ hc) hdep hmin)

end

section
/-! SUPPORT. The coding matrix. A polynomial with as many roots as coefficients is 0, so a Vandermonde matrix of
distinct points is invertible; and the coding matrix takes the values of a polynomial at the first D points to its
values at all N points. What the spec says of the matrix is read off the two. -/

namespace Sys2Proof.Machine

open Sys2Proof.Claims

/-! ### Polynomials and their roots -/

/-- The product distributes over the sum from the right too (41 R258). -/
theorem gfMul_xor_left (a b c : Byte) : gfMul (a ^^^ b) c = gfMul a c ^^^ gfMul b c := by
  rw [gfMul_comm, gfMul_xor_right, gfMul_comm c, gfMul_comm c]

/-- A nonzero factor of 0 leaves the other one 0 (41 R258). -/
theorem eq_zero_of_gfMul_eq_zero {a b : Byte} (ha : a ≠ 0#8) (h : gfMul a b = 0#8) : b = 0#8 := by
  refine gfMul_right_cancel ha ?_
  rw [gfMul_comm, h, gfMul_zero_left]

/-- The value at `x` of the polynomial with these coefficients, the constant one first. -/
def polyEval (x : Byte) : List Byte → Byte
  | [] => 0#8
  | a :: p => a ^^^ gfMul x (polyEval x p)

/-- The coefficients of `(x * p(x) - r * p(r)) / (x - r)`: the values at `r` of `p` and of what is left of it without
its first coefficients. -/
def quotient (r : Byte) : List Byte → List Byte
  | [] => []
  | a :: p => polyEval r (a :: p) :: quotient r p

theorem length_quotient (r : Byte) (p : List Byte) : (quotient r p).length = p.length := by
  induction p with
  | nil => rfl
  | cons a p ih => rw [quotient, List.length_cons, List.length_cons, ih]

/-- The quotient times its divisor; subtraction equals addition (41 R253). -/
theorem gfMul_polyEval_xor (x r : Byte) (p : List Byte) :
    gfMul x (polyEval x p) ^^^ gfMul r (polyEval r p) = gfMul (x ^^^ r) (polyEval x (quotient r p)) := by
  induction p with
  | nil => simp only [polyEval, quotient, gfMul_zero_right, BitVec.xor_self]
  | cons a p ih =>
    have hval : polyEval x (a :: p) =
        polyEval r (a :: p) ^^^ (gfMul x (polyEval x p) ^^^ gfMul r (polyEval r p)) := by
      calc a ^^^ gfMul x (polyEval x p)
          = a ^^^ gfMul x (polyEval x p) ^^^ (gfMul r (polyEval r p) ^^^ gfMul r (polyEval r p)) := by
            rw [BitVec.xor_self, BitVec.xor_zero]
        _ = a ^^^ gfMul r (polyEval r p) ^^^ (gfMul x (polyEval x p) ^^^ gfMul r (polyEval r p)) := by ac_rfl
    calc gfMul x (polyEval x (a :: p)) ^^^ gfMul r (polyEval r (a :: p))
        = gfMul x (polyEval r (a :: p)) ^^^ gfMul r (polyEval r (a :: p)) ^^^
            gfMul (x ^^^ r) (gfMul x (polyEval x (quotient r p))) := by
          rw [hval, ih, gfMul_xor_right, ← gfMul_assoc, gfMul_comm x (x ^^^ r), gfMul_assoc]
          ac_rfl
      _ = gfMul (x ^^^ r) (polyEval r (a :: p) ^^^ gfMul x (polyEval x (quotient r p))) := by
          rw [gfMul_xor_right, gfMul_xor_left x r (polyEval r (a :: p))]

theorem polyEval_eq_zero (x : Byte) {p : List Byte} (h : ∀ a ∈ p, a = 0#8) : polyEval x p = 0#8 := by
  induction p with
  | nil => rfl
  | cons a p ih =>
    rw [polyEval, h a List.mem_cons_self, ih fun b hb => h b (List.mem_cons_of_mem a hb), gfMul_zero_right,
      BitVec.xor_zero]

/-- Once the other coefficients are 0 the value is the constant one. -/
theorem eq_zero_of_polyEval_cons {x a : Byte} {p : List Byte} (hp : ∀ b ∈ p, b = 0#8)
    (h : polyEval x (a :: p) = 0#8) : a = 0#8 := by
  rwa [polyEval, polyEval_eq_zero x hp, gfMul_zero_right, BitVec.xor_zero] at h

/-- A polynomial whose quotient is 0 is 0. -/
theorem eq_zero_of_quotient {r : Byte} {p : List Byte} (h : ∀ a ∈ quotient r p, a = 0#8) : ∀ a ∈ p, a = 0#8 := by
  induction p with
  | nil => exact h
  | cons a p ih =>
    obtain ⟨ha, hq⟩ := List.forall_mem_cons.1 h
    exact List.forall_mem_cons.2 ⟨eq_zero_of_polyEval_cons (ih hq) ha, ih hq⟩

/-- A polynomial with at least as many roots as coefficients is 0: its quotient by one root has the others. -/
theorem eq_zero_of_roots {p xs : List Byte} (hxs : xs.Nodup) (hlen : p.length ≤ xs.length)
    (hroot : ∀ x ∈ xs, polyEval x p = 0#8) : ∀ a ∈ p, a = 0#8 := by
  induction xs generalizing p with
  | nil =>
    obtain rfl := List.eq_nil_of_length_eq_zero (Nat.le_zero.1 hlen)
    exact nofun
  | cons r xs ih =>
    obtain _ | ⟨a, p⟩ := p
    · exact nofun
    obtain ⟨hr, hxs⟩ := List.nodup_cons.1 hxs
    obtain ⟨hrootr, hroot⟩ := List.forall_mem_cons.1 hroot
    have hquot (x : Byte) (hx : x ∈ xs) : polyEval x (quotient r p) = 0#8 := by
      have hne : x ^^^ r ≠ 0#8 := fun h => hr (BitVec.xor_eq_zero_iff.1 h ▸ hx)
      refine eq_zero_of_gfMul_eq_zero hne ?_
      have hax : a = gfMul x (polyEval x p) := BitVec.xor_eq_zero_iff.1 (hroot x hx)
      have har : a = gfMul r (polyEval r p) := BitVec.xor_eq_zero_iff.1 hrootr
      rw [← gfMul_polyEval_xor, ← hax, ← har, BitVec.xor_self]
    have hp := eq_zero_of_quotient (ih hxs (by simpa [length_quotient] using hlen) hquot)
    exact List.forall_mem_cons.2 ⟨eq_zero_of_polyEval_cons hp hrootr, hp⟩

/-! ### Values at the rows of a Vandermonde matrix -/

/-- The value at the point of row `i` of the polynomial with coefficients `u 0`, ..., `u (d-1)`: row `i` of a
Vandermonde matrix of `d` columns times the column `u` (42 R311). -/
def rowValue (d : Nat) (u : Nat → Byte) (i : Nat) : Byte :=
  fieldSum (fun k => gfMul (power (BitVec.ofNat 8 i) k) (u k)) d

/-- The sum of powers is the value of the coefficients' list. -/
theorem polyEval_map_range (x : Byte) (u : Nat → Byte) (n : Nat) :
    polyEval x ((List.range n).map u) = fieldSum (fun k => gfMul (power x k) (u k)) n := by
  induction n generalizing u with
  | zero => rfl
  | succ n ih =>
    have hfirst : fieldSum (fun k => gfMul (power x k) (u k)) 1 = u 0 :=
      BitVec.zero_xor.trans (gfMul_one_left (u 0))
    have hpower (k : Nat) : power x (1 + k) = gfMul x (power x k) := by
      rw [power_add, power, power, gfMul_one_left]
    rw [List.range_succ_eq_map, List.map_cons, List.map_map, polyEval, ih, Nat.add_comm, fieldSum_add, hfirst,
      ← fieldSum_gfMul_left]
    simp only [hpower, gfMul_assoc, Function.comp_apply, Nat.succ_eq_one_add]

/-- A polynomial of `d` coefficients that is 0 at `d` of the 256 points is 0. -/
theorem eq_zero_of_rowValue {rows : List Nat} {d : Nat} {u : Nat → Byte} (hrows : rows.Nodup)
    (hlen : rows.length = d) (hlt : ∀ i ∈ rows, i < 256) (h : ∀ i ∈ rows, rowValue d u i = 0#8) :
    ∀ k, k < d → u k = 0#8 := by
  have hpoints : (rows.map (BitVec.ofNat 8)).Nodup := by
    refine hrows.map_on fun i hi j hj hij => ?_
    have hnat := congrArg BitVec.toNat hij
    rwa [BitVec.toNat_ofNat, BitVec.toNat_ofNat, Nat.mod_eq_of_lt (hlt i hi), Nat.mod_eq_of_lt (hlt j hj)] at hnat
  have hzero := eq_zero_of_roots (p := (List.range d).map u) hpoints (by simp [hlen])
    (List.forall_mem_map.2 fun i hi => (polyEval_map_range ..).trans (h i hi))
  exact fun k hk => hzero (u k) (List.mem_map_of_mem (List.mem_range.2 hk))

/-! ### Inverses by the equations they solve -/

/-- What `invert` answers solves every equation with the matrix (42 R316). -/
theorem solvedBy_of_invert {a x : Mat} (hsq : a.rows = a.cols) (h : a.invert = .matrix x) : a.SolvedBy x := by
  have hanswer := invert_answer hsq
  rw [h] at hanswer
  obtain ⟨hx⟩ := hanswer
  exact hx

/-- A square matrix that makes 0 of no other column than 0 has an inverse (42 R316). -/
theorem exists_invert_of_solves {a : Mat} (hsq : a.rows = a.cols)
    (h : ∀ y, a.Solves y → ∀ j, j < a.rows → y j = 0#8) : ∃ x, a.invert = .matrix x := by
  cases hinv : a.invert with
  | matrix x => exact ⟨x, rfl⟩
  | singular c =>
    have hc := singular_lt hinv
    obtain ⟨f, hf⟩ := (dependentColumn_iff_solves (hsq ▸ hc)).1 (dependentColumn_of_invert hsq hinv).1
    have hone : combination c f c = 0#8 := h _ hf c hc
    rw [combination, if_neg (lt_irrefl c), delta_self] at hone
    exact absurd hone (by decide)

/-- A row of a product times a column (42 R312). -/
theorem rowDot_product (a b : Mat) (y : Nat → Byte) {i : Nat} (hi : i < a.rows) :
    (a.product b).rowDot y i = a.rowDot (b.rowDot y) i := by
  obtain ⟨-, -, hat⟩ := elems_product a b
  calc (a.product b).rowDot y i
      = fieldSum (fun j => fieldSum (fun k => gfMul (a.at i k) (gfMul (b.at k j) (y j))) a.cols) b.cols :=
        fieldSum_congr fun j hj => by
          rw [hat i j hi hj, gfMul_comm, ← fieldSum_gfMul_left]
          exact fieldSum_congr fun k _ => by rw [gfMul_comm, gfMul_assoc]
    _ = a.rowDot (b.rowDot y) i := by
        rw [fieldSum_comm]
        exact fieldSum_congr fun k _ => fieldSum_gfMul_left ..

/-- A row of a choice of rows is a row of the matrix (42 R314). -/
theorem rowDot_submatrix_rows {a : Mat} {rows : List Nat} {d : Nat} (hd : a.cols = d) (y : Nat → Byte) {i : Nat}
    (hi : i < rows.length) : (a.submatrix rows (List.range d)).rowDot y i = a.rowDot y (rows.getD i 0) := by
  rw [Mat.rowDot, Mat.rowDot, (dims_submatrix ..).2, List.length_range, hd]
  refine fieldSum_congr fun k hk => ?_
  rw [Mat.submatrix, at_build _ hi (List.length_range.symm ▸ hk)]
  simp [List.getD_eq_getElem?_getD, hk]

/-! ### The coding matrix -/

/-- The top block of the Vandermonde matrix, which the coding matrix is normalised by (43 R381). -/
def topBlock (d p : Nat) : Mat := (Mat.vandermonde (d + p) d).submatrix (List.range d) (List.range d)

theorem dims_topBlock (d p : Nat) : (topBlock d p).rows = d ∧ (topBlock d p).cols = d := by simp [topBlock]

theorem topBlock_square (d p : Nat) : (topBlock d p).rows = (topBlock d p).cols := rfl

/-- Row `i` of the Vandermonde matrix gives the value at point `i` (42 R311). -/
theorem rowDot_vandermonde {n d i : Nat} (u : Nat → Byte) (hi : i < n) :
    (Mat.vandermonde n d).rowDot u i = rowValue d u i := by
  obtain ⟨-, hcols, hat⟩ := elems_vandermonde n d
  rw [Mat.rowDot, hcols]
  exact fieldSum_congr fun k hk => by rw [hat i k hi hk]

/-- So does row `i` of its top block. -/
theorem rowDot_topBlock {d i : Nat} (p : Nat) (u : Nat → Byte) (hi : i < d) :
    (topBlock d p).rowDot u i = rowValue d u i := by
  rw [topBlock, rowDot_submatrix_rows (d := d) rfl u (List.length_range.symm ▸ hi),
    ← rowDot_vandermonde u (Nat.lt_add_right p hi)]
  simp [List.getD_eq_getElem?_getD, hi]

/-- There is a coding matrix wherever the field has enough points (43 R382). -/
theorem exists_codingMatrix {d p : Nat} (hn : d + p ≤ 256) : ∃ x, codingMatrix d p = .matrix x := by
  obtain ⟨hrows, -⟩ := dims_topBlock d p
  obtain ⟨t, ht⟩ : ∃ t, (topBlock d p).invert = .matrix t := by
    refine exists_invert_of_solves (topBlock_square d p) fun y hy => ?_
    rw [hrows]
    refine eq_zero_of_rowValue List.nodup_range List.length_range ?_ fun i hi => ?_
    · exact fun i hi => (List.mem_range.1 hi).trans_le (by omega)
    · have hid := List.mem_range.1 hi
      rw [← rowDot_topBlock p y hid, hy i (hrows.symm ▸ hid)]
  rw [topBlock] at ht
  exact ⟨_, by rw [codingMatrix, ht]⟩

section

variable {d p : Nat} {x : Mat} (hx : codingMatrix d p = .matrix x)
include hx

/-- The coding matrix is the Vandermonde matrix times a matrix that solves every equation with its top block
(43 R381). -/
theorem exists_solvedBy_of_codingMatrix :
    ∃ t, (topBlock d p).SolvedBy t ∧ x = (Mat.vandermonde (d + p) d).product t := by
  unfold codingMatrix at hx
  split at hx
  next => cases hx
  next t ht => exact ⟨t, solvedBy_of_invert (topBlock_square d p) ht, (Solved.matrix.inj hx).symm⟩

/-- The coding matrix takes the values of a polynomial at the first D points to its values at all points (43 R381). -/
theorem rowDot_codingMatrix {u v : Nat → Byte} (h : ∀ i, i < d → rowValue d u i = v i) {i : Nat} (hi : i < d + p) :
    x.rowDot v i = rowValue d u i := by
  obtain ⟨hrows, -⟩ := dims_topBlock d p
  obtain ⟨t, ht, rfl⟩ := exists_solvedBy_of_codingMatrix hx
  have hu : ∀ k, k < d → u k = t.rowDot v k :=
    hrows ▸ (ht u v).1 fun k hk => (rowDot_topBlock p u (hrows ▸ hk)).trans (h k (hrows ▸ hk))
  rw [rowDot_product _ _ _ hi, rowDot_vandermonde _ hi]
  exact fieldSum_congr fun k hk => by rw [hu k hk]

/-- Any values at the first D points are those of a polynomial (43 R381). -/
theorem exists_rowValue (v : Nat → Byte) : ∃ u, ∀ i, i < d → rowValue d u i = v i := by
  obtain ⟨hrows, -⟩ := dims_topBlock d p
  obtain ⟨t, ht, -⟩ := exists_solvedBy_of_codingMatrix hx
  have hv := (ht (t.rowDot v) v).2 fun _ _ => rfl
  exact ⟨t.rowDot v, fun i hi => (rowDot_topBlock p _ hi).symm.trans (hv i (hrows.symm ▸ hi))⟩

/-- The coding matrix gives every column back in its first D rows (43 R381). -/
theorem rowDot_codingMatrix_data (v : Nat → Byte) {i : Nat} (hi : i < d) : x.rowDot v i = v i := by
  obtain ⟨u, hu⟩ := exists_rowValue hx v
  rw [rowDot_codingMatrix hx hu (Nat.lt_add_right p hi), hu i hi]

/-- A column that D rows of the coding matrix make 0 is 0: its polynomial has D roots (43 R382). -/
theorem eq_zero_of_rowDot_codingMatrix {rows : List Nat} {y : Nat → Byte} (hn : d + p ≤ 256) (hrows : rows.Nodup)
    (hlen : rows.length = d) (hlt : ∀ i ∈ rows, i < d + p) (h : ∀ i ∈ rows, x.rowDot y i = 0#8) :
    ∀ j, j < d → y j = 0#8 := by
  obtain ⟨u, hu⟩ := exists_rowValue hx y
  have hzero : ∀ k, k < d → u k = 0#8 := by
    refine eq_zero_of_rowValue hrows hlen (fun i hi => (hlt i hi).trans_le hn) fun i hi => ?_
    rw [← rowDot_codingMatrix hx hu (hlt i hi), h i hi]
  intro j hj
  rw [← hu j hj]
  exact fieldSum_eq_zero fun k hk => by rw [hzero k hk, gfMul_zero_right]

/-- The coding matrix has the identity on top (43 R381). -/
theorem at_codingMatrix_data {i j : Nat} (hi : i < d) (hj : j < d) : x.at i j = delta i j := by
  obtain ⟨-, hcols⟩ := dims_codingMatrix hx
  rw [← rowDot_delta x i (hcols.symm ▸ hj), rowDot_codingMatrix_data hx _ hi]

/-- A parity element of the coding matrix is not 0: with its row in place of row `j` the identity would not be
invertible (43 R382). -/
theorem at_codingMatrix_parity_ne_zero {i j : Nat} (hn : d + p ≤ 256) (hi : d ≤ i) (hip : i < d + p) (hj : j < d) :
    x.at i j ≠ 0#8 := by
  intro hzero
  obtain ⟨-, hcols⟩ := dims_codingMatrix hx
  have hnotin : i ∉ (List.range d).erase j := fun h => by
    have := List.mem_range.1 (List.mem_of_mem_erase h)
    omega
  have hlen : (i :: (List.range d).erase j).length = d := by
    rw [List.length_cons, List.length_erase_of_mem (List.mem_range.2 hj), List.length_range]
    omega
  have hone : delta j j = 0#8 := by
    refine eq_zero_of_rowDot_codingMatrix hx (rows := i :: (List.range d).erase j) (y := fun k => delta k j) hn
      (List.nodup_cons.2 ⟨hnotin, List.nodup_range.erase j⟩) hlen ?_ ?_ j hj
    · refine List.forall_mem_cons.2 ⟨hip, fun k hk => ?_⟩
      exact Nat.lt_add_right p (List.mem_range.1 (List.mem_of_mem_erase hk))
    · refine List.forall_mem_cons.2 ⟨(rowDot_delta x i (hcols.symm ▸ hj)).trans hzero, fun k hk => ?_⟩
      obtain ⟨hkj, hk⟩ := List.nodup_range.mem_erase_iff.1 hk
      rw [rowDot_codingMatrix_data hx _ (List.mem_range.1 hk), delta_of_ne hkj]
  rw [delta_self] at hone
  exact absurd hone (by decide)

/-- Any D distinct rows of the coding matrix form an invertible matrix (43 R382). -/
theorem exists_invert_of_codingMatrix_rows {rows : List Nat} (hn : d + p ≤ 256) (hrows : rows.Nodup)
    (hlen : rows.length = d) (hlt : ∀ i ∈ rows, i < d + p) :
    ∃ inv, (x.submatrix rows (List.range d)).invert = .matrix inv := by
  obtain ⟨-, hcols⟩ := dims_codingMatrix hx
  refine exists_invert_of_solves (hlen.trans List.length_range.symm) fun y hy => ?_
  rw [(dims_submatrix ..).1, hlen]
  refine eq_zero_of_rowDot_codingMatrix hx hn hrows hlen hlt fun r hr => ?_
  obtain ⟨i, hi, rfl⟩ := List.getElem_of_mem hr
  rw [← List.getD_eq_getElem _ 0 hi, ← rowDot_submatrix_rows hcols y hi, hy i hi]

end

end Sys2Proof.Machine

open Sys2Proof Sys2Proof.Machine Sys2Proof.Claims

/-- Settles O33: the coding matrix gives the first D values of a polynomial back, and takes those of a power to all of
them; a 0 below would leave D rows that are not invertible. -/
theorem codingMatrixIsSystematic : Obligations.CodingMatrixIsSystematic := by
  intro d p x _ _ hn hx
  obtain ⟨hrows, hcols⟩ := dims_codingMatrix hx
  refine ⟨hrows, hcols, fun i j hi hj => at_codingMatrix_data hx hi hj,
    fun i j => at_codingMatrix_parity_ne_zero hx hn, fun r c hr hc => ?_⟩
  have hpower (i : Nat) : rowValue d (fun k => delta k c) i = power (BitVec.ofNat 8 i) c := by
    rw [← fieldSum_delta (fun k => power (BitVec.ofNat 8 i) k) hc]
    exact fieldSum_congr fun k _ => by rw [gfMul_comm, delta_comm]
  have hdot := rowDot_codingMatrix hx (fun i _ => hpower i) hr
  rwa [Mat.rowDot, hcols, hpower] at hdot

/-- Settles O34: the top block of the Vandermonde matrix makes 0 of no polynomial but 0. -/
theorem configureIsNeverSingular : Obligations.ConfigureIsNeverSingular := by
  intro s hd hp hn
  obtain ⟨x, hx⟩ := exists_codingMatrix hn
  obtain ⟨-, hconfigure⟩ := configureCommitsOrReports
  exact ⟨x, hx, (hconfigure s).2 hd hp hn x hx⟩

/-- Settles O35: a column that D rows make 0 comes from a polynomial with D roots. -/
theorem anyDRowsAreInvertible : Obligations.AnyDRowsAreInvertible := fun _ _ _ _ _ _ hn hx =>
  exists_invert_of_codingMatrix_rows hx hn

end

section
/-! SUPPORT. ENCODE and VERIFY: the bytes a write of slot buffers leaves, when the checks pass, and the parity bytes
that the one command writes and the other compares. -/

namespace Sys2Proof.Machine

open Sys2Proof.Claims

/-! ### Slot buffers -/

/-- An address in the buffers of two slots makes them overlap (40 R209). -/
theorem overlaps_of_inBuffer {s : State} {len i j a : Nat} (hj : j < total s) (hne : j ≠ i) (hia : inBuffer s len i a)
    (hja : inBuffer s len j a) : overlaps s len i := by
  obtain ⟨hi1, hi2⟩ := hia
  obtain ⟨hj1, hj2⟩ := hja
  exact ⟨j, hj, hne, hi1.trans_lt hj2, hj1.trans_lt hi2⟩

/-- A slot's buffer overlaps no other in the words of the check (40 R209). -/
theorem not_overlaps_iff {s : State} {len i : Nat} :
    ¬ overlaps s len i ↔ ∀ j ∈ s.allSlots, j ≠ i → s.overlap i j len = false := by
  simp [State.overlap]

/-- Byte `k` of a slot's buffer lies in it. -/
theorem inBuffer_add {s : State} {len k : Nat} (i : Nat) (hk : k < len) : inBuffer s len i (s.addrOf i + k) :=
  ⟨Nat.le_add_right _ k, Nat.add_lt_add_left hk _⟩

section

variable {s : State} {content : Nat → List Byte} {slots : List Nat} {len : Nat}
  (hcontent : ∀ i, (content i).length = len)
include hcontent

/-- A byte in none of the buffers that a list of slots is written to (43 R390, R395). -/
theorem byteAt_writeSlots_outside {a : Nat} (h : ∀ i ∈ slots, ¬ inBuffer s len i a) :
    { s with shmem := s.writeSlots content s.shmem slots }.byteAt a = s.byteAt a := by
  refine congrArg (Option.getD · _) (lookup_writeSlots_outside s content slots s.shmem a fun i hi => ?_)
  rw [hcontent i]
  exact h i hi

/-- A byte in one of them, where no buffer written overlaps another (43 R390, R395). -/
theorem byteAt_writeSlots_inside (hslots : ∀ i ∈ slots, i < total s) (hapart : ∀ i ∈ slots, ¬ overlaps s len i)
    {i k : Nat} (hi : i ∈ slots) (hk : k < len) :
    { s with shmem := s.writeSlots content s.shmem slots }.byteAt (s.addrOf i + k) = (content i).getD k 0#8 := by
  have hlookup := lookup_writeSlots_inside s content slots s.shmem (x := s.addrOf i + k) hi
    (by rw [hcontent i]; exact inBuffer_add i hk) fun j hj hne hin => by
      rw [hcontent j] at hin
      exact hapart i hi (overlaps_of_inBuffer (hslots j hj) hne (inBuffer_add i hk) hin)
  rw [State.byteAt, hlookup, Nat.add_sub_cancel_left, Option.getD_some]

end

/-- Byte `k` of combined byte sequences as a sum over bytes `k` of the sequences (43 R391). -/
theorem getD_combine_eq_fieldSum {d len k : Nat} {coef : Nat → Byte} {data : Nat → List Byte} {f : Nat → Byte}
    (hk : k < len) (h : ∀ j, j < d → (data j).getD k 0#8 = f j) :
    (combine d len coef data).getD k 0#8 = fieldSum (fun j => gfMul (coef j) (f j)) d := by
  rw [getD_combine coef data hk, gfSum_map_range]
  exact fieldSum_congr fun j hj => by rw [h j hj]

/-- Byte `k` of a parity sequence (43 R391). -/
theorem getD_parity (s : State) (r : Nat) {len k : Nat} (hk : k < len) :
    (s.parity r len).getD k 0#8 = parityByte s r k :=
  getD_combine_eq_fieldSum hk fun _ _ => getD_readBytes s hk

/-- The parity slots, also where there are none (43 R390). -/
theorem mem_paritySlots_iff {s : State} {i : Nat} : i ∈ s.paritySlots ↔ data s ≤ i ∧ i < total s := by
  rw [State.paritySlots, List.mem_range'_1, data, total]
  omega

/-! ### ENCODE -/

/-- No parity buffer overlaps another buffer (43 R390). -/
abbrev parityApart (s : State) (len : Nat) : Prop := ∀ i, i < total s → data s ≤ i → ¬ overlaps s len i

/-- The checks of VERIFY pass in the words of the statements (43 R393). -/
theorem verifyChecks_eq_ok_iff {s : State} {len : Nat} : verifyChecks s = .ok len ↔ Ready s len := by
  refine ⟨fun h => ?_, verifyChecks_of_ready⟩
  obtain ⟨hconf, hcount, rfl, hsizes, hbounds⟩ := (verifyChecks_ok ..).1 h
  exact ⟨⟨hconf, hcount⟩, rfl, fun i hi => not_sizeBad_iff.2 (hsizes i hi),
    fun i hi => not_lt.2 (hbounds i (mem_allSlots.2 hi))⟩

/-- So do those of ENCODE (43 R390). -/
theorem encodeChecks_eq_ok_iff {s : State} {len : Nat} :
    encodeChecks s = .ok len ↔ Ready s len ∧ parityApart s len := by
  have hapart : checkOverlap s s.allSlots s.paritySlots len = .ok () ↔ parityApart s len := by
    rw [checkOverlap_ok]
    refine forall_congr' fun i => ?_
    rw [mem_paritySlots_iff, ← not_overlaps_iff, and_comm, and_imp]
  rw [encodeChecks_eq, bind_ok, ← verifyChecks_eq_ok_iff, ← hapart]
  simp only [bind_ok, exists_unit, Except.ok.injEq]
  constructor
  · rintro ⟨_, hready, hover, rfl⟩
    exact ⟨hready, hover⟩
  · rintro ⟨hready, hover⟩
    exact ⟨len, hready, hover, rfl⟩

section

variable {s : State} {len : Nat}

/-- ENCODE completes where its checks pass (43 R390). -/
theorem exec_encode (hready : Ready s len) (hapart : parityApart s len) :
    exec .encode s = .next (finished (s.encodeShards len)) :=
  exec_of_ok (bind_of_ok _ (encodeChecks_eq_ok_iff.2 ⟨hready, hapart⟩))

/-- What ENCODE leaves in the parity buffers (43 R391). -/
theorem byteAt_encodeShards_parity (hapart : parityApart s len) {r k : Nat} (hr : r < total s) (hd : data s ≤ r)
    (hk : k < len) : (s.encodeShards len).byteAt (s.addrOf r + k) = parityByte s r k := by
  refine (byteAt_writeSlots_inside (fun i => length_parity s i len) (fun i hi => ?_) (fun i hi => ?_)
    (mem_paritySlots_iff.2 ⟨hd, hr⟩) hk).trans (getD_parity s r hk)
  · exact (mem_paritySlots_iff.1 hi).2
  · exact hapart i (mem_paritySlots_iff.1 hi).2 (mem_paritySlots_iff.1 hi).1

/-- What ENCODE leaves elsewhere (43 R391). -/
theorem byteAt_encodeShards_other {a : Nat} (h : ∀ r, r < total s → data s ≤ r → ¬ inBuffer s len r a) :
    (s.encodeShards len).byteAt a = s.byteAt a :=
  byteAt_writeSlots_outside (fun i => length_parity s i len) fun r hr =>
    h r (mem_paritySlots_iff.1 hr).2 (mem_paritySlots_iff.1 hr).1

/-- ENCODE changes no parity byte, since it leaves the data buffers (43 R392). -/
theorem parityByte_encodeShards (hapart : parityApart s len) (r : Nat) {k : Nat} (hk : k < len) :
    parityByte (s.encodeShards len) r k = parityByte s r k := by
  refine fieldSum_congr fun j hj => congrArg (gfMul (s.cm.at r j)) (byteAt_encodeShards_other fun q hq hdq hin => ?_)
  have hj : j < data s := hj
  exact hapart q hq hdq (overlaps_of_inBuffer (by omega) (by omega) hin (inBuffer_add j hk))

/-! ### VERIFY -/

/-- The verdict byte by byte (43 R393). -/
theorem parityMatches_eq_true_iff : s.parityMatches len = true ↔
    ∀ r k, r < total s → data s ≤ r → k < len → s.byteAt (s.addrOf r + k) = parityByte s r k := by
  have hslot (r : Nat) : s.parity r len = s.buf r len ↔
      ∀ k, k < len → s.byteAt (s.addrOf r + k) = parityByte s r k := by
    constructor
    · intro h k hk
      rw [← getD_parity s r hk, h, State.buf, getD_readBytes s hk]
    · intro h
      refine List.ext_getElem (by simp) fun k hk hk' => ?_
      have hlen : k < len := by simpa using hk
      rw [← List.getD_eq_getElem _ 0#8 hk, ← List.getD_eq_getElem _ 0#8 hk', getD_parity s r hlen, State.buf,
        getD_readBytes s hlen, h k hlen]
  simp only [State.parityMatches, List.all_eq_true, beq_iff_eq, hslot, mem_paritySlots_iff]
  exact ⟨fun h r k hr hd => h r ⟨hd, hr⟩ k, fun h r hr k => h r k hr.2 hr.1⟩

/-- VERIFY completes with its verdict where its checks pass (43 R393). -/
theorem exec_verify (hready : Ready s len) :
    exec .verify s = .next (finished { s with verifyOk := s.parityMatches len }) :=
  exec_of_ok (bind_of_ok _ (verifyChecks_of_ready hready))

end

/-! ### Completion without an error -/

/-- A command that completes without an error is its rule's updates, completed (40 R204). -/
theorem exists_ok_of_not_err {i : Instr} {s t : State} (h : exec i s = .next t) (herr : t.err = false) :
    ∃ u, ruleOf i s = .ok u ∧ t = u.completeOk := by
  rw [exec_eq_complete] at h
  obtain hok | ⟨e, -, rfl⟩ := complete_cases h
  · exact hok
  · cases herr

/-- An ENCODE that completes without an error has passed its checks and written the parity (43 R390). -/
theorem exists_encodeShards_of_not_err {s t : State} (h : exec .encode s = .next t) (herr : t.err = false) :
    ∃ len, Ready s len ∧ parityApart s len ∧ t = (s.encodeShards len).completeOk := by
  obtain ⟨u, hu, rfl⟩ := exists_ok_of_not_err h herr
  obtain ⟨len, hchecks, rfl⟩ := encodeRule_ok hu
  obtain ⟨hready, hapart⟩ := encodeChecks_eq_ok_iff.1 hchecks
  exact ⟨len, hready, hapart, rfl⟩

end Sys2Proof.Machine

open Sys2Proof Sys2Proof.Machine Sys2Proof.Claims

/-- Settles O36: the parity buffers are apart, so each keeps what is written to it. -/
theorem encodeWritesParity : Obligations.EncodeWritesParity :=
  ⟨rfl, fun _ _ hready hapart => ⟨_, exec_encode hready hapart,
    fun _ _ => byteAt_encodeShards_parity hapart, fun _ => byteAt_encodeShards_other⟩⟩

/-- Settles O37: the verdict compares the parity sequences byte by byte. -/
theorem verifyWritesTheVerdict : Obligations.VerifyWritesTheVerdict :=
  ⟨rfl, fun _ _ hready => ⟨_, exec_verify hready, parityMatches_eq_true_iff⟩⟩

/-- Settles O41: ENCODE leaves the data buffers, so the parity of its result is the parity it has written. -/
theorem encodeThenVerifySucceeds : Obligations.EncodeThenVerifySucceeds := by
  intro s t h herr
  obtain ⟨len, ⟨hcounted, hfirst, hsizes, hbounds⟩, hapart, rfl⟩ := exists_encodeShards_of_not_err h herr
  have hready (w : Word) : Ready ((s.encodeShards len).completeOk.issue w) len := ⟨hcounted, hfirst, hsizes, hbounds⟩
  have hparity (r k : Nat) (hr : r < total s) (hd : data s ≤ r) (hk : k < len) :
      (s.encodeShards len).byteAt (s.addrOf r + k) = parityByte (s.encodeShards len) r k := by
    rw [byteAt_encodeShards_parity hapart hr hd hk, parityByte_encodeShards hapart r hk]
  refine ⟨⟨_, exec_verify (hready _), rfl, parityMatches_eq_true_iff.2 hparity⟩,
    _, exec_encode (hready _) hapart, rfl, fun a => ?_⟩
  by_cases hin : ∃ r, r < total s ∧ data s ≤ r ∧ inBuffer s len r a
  · obtain ⟨r, hr, hd, hle, hlt⟩ := hin
    obtain ⟨k, rfl⟩ := Nat.exists_eq_add_of_le hle
    have hk : k < len := Nat.lt_of_add_lt_add_left hlt
    exact (byteAt_encodeShards_parity (s := (s.encodeShards len).completeOk.issue _) hapart hr hd hk).trans
      (hparity r k hr hd hk).symm
  · exact byteAt_encodeShards_other (s := (s.encodeShards len).completeOk.issue _)
      fun r hr hd hra => hin ⟨r, hr, hd, hra⟩

end

section
/-! SUPPORT. RECONSTRUCT: what it writes where its checks pass, and why that is the encoded message. -/

namespace Sys2Proof.Machine

open Sys2Proof.Claims

section

variable {s : State} {len : Nat}

/-- With every slot present RECONSTRUCT has nothing to do (43 R395). -/
theorem ruleOf_reconstruct_of_present (h : Recoverable s len) (hall : ∀ i, i < total s → here s i) :
    ruleOf .reconstruct s = .ok s := by
  have hlen : (s.presentSlots s.nTotal.toNat).length = s.nTotal.toNat :=
    (List.length_filter_eq_length_iff.2 fun i hi => hall i (List.mem_range.1 hi)).trans List.length_range
  rw [ruleOf, reconstructRule, bind_of_ok _ (reconstructChecks_of_recoverable h), if_pos hlen]

/-- With a slot absent and the decode matrix inverted RECONSTRUCT fills the absent slots (43 R395). -/
theorem ruleOf_reconstruct_of_inverse {inv : Mat} (h : Recoverable s len) (habsent : ∃ i, i < total s ∧ ¬ here s i)
    (hbounds : ∀ i, i < total s → ¬ endsPast s len i)
    (hapart : ∀ i ∈ s.absentSlots s.nTotal.toNat, ¬ overlaps s len i)
    (hinv : s.decodeMatrix.invert = .matrix inv) : ruleOf .reconstruct s = .ok (s.reconstructShards inv len) := by
  rw [ruleOf, reconstructRule, bind_of_ok _ (reconstructChecks_of_recoverable h),
    if_neg (length_presentSlots_ne habsent), bind_of_ok _ (checkBounds_pass hbounds),
    bind_of_ok _ (checkOverlap_pass hapart), hinv]

/-! ### The bytes written -/

/-- Row `a` of the decode matrix is the row of the `a`-th present slot (43 R395). -/
theorem getD_sourceSlots {a : Nat} (ha : a < data s) : s.sourceSlots.getD a 0 = (presentList s).getD a 0 := by
  rw [State.sourceSlots, List.getD_eq_getElem?_getD, List.getElem?_take_of_lt ha, ← List.getD_eq_getElem?_getD]
  rfl

/-- Byte `k` of data shard `j`, known or recovered (43 R395, R396). -/
theorem getD_dataOf (inv : Mat) (j : Nat) {k : Nat} (hk : k < len) :
    (s.dataOf inv len j).getD k 0#8 = dataByte s inv j k := by
  rw [State.dataOf, dataByte]
  split_ifs with h1 h2 h2
  · exact getD_readBytes s hk
  · exact absurd h1 h2
  · exact absurd h2 h1
  · exact getD_combine_eq_fieldSum hk fun a ha => by rw [State.buf, getD_readBytes s hk, getD_sourceSlots ha]

/-- Byte `k` of what RECONSTRUCT writes into slot `i` (43 R395). -/
theorem getD_restored (inv : Mat) (i : Nat) {k : Nat} (hk : k < len) : (s.restored inv len i).getD k 0#8 =
    if i < data s then dataByte s inv i k
    else fieldSum (fun j => gfMul (s.cm.at i j) (dataByte s inv j k)) (data s) := by
  rw [State.restored]
  split_ifs
  · exact getD_dataOf inv i hk
  · exact getD_combine_eq_fieldSum hk fun j _ => getD_dataOf inv j hk

/-- What RECONSTRUCT leaves in the absent buffers (43 R395). -/
theorem byteAt_reconstructShards_absent (inv : Mat) (hapart : ∀ i, i < total s → ¬ here s i → ¬ overlaps s len i)
    {i k : Nat} (hi : i < total s) (habsent : ¬ here s i) (hk : k < len) :
    (s.reconstructShards inv len).byteAt (s.addrOf i + k) = if i < data s then dataByte s inv i k
      else fieldSum (fun j => gfMul (s.cm.at i j) (dataByte s inv j k)) (data s) := by
  refine (byteAt_writeSlots_inside (fun i => length_restored s inv len i) (fun j hj => ?_) (fun j hj => ?_)
    (mem_absentSlots_iff_not_here.2 ⟨hi, habsent⟩) hk).trans (getD_restored inv i hk)
  · exact (mem_absentSlots_iff_not_here.1 hj).1
  · exact hapart j (mem_absentSlots_iff_not_here.1 hj).1 (mem_absentSlots_iff_not_here.1 hj).2

/-- What RECONSTRUCT leaves elsewhere (43 R395). -/
theorem byteAt_reconstructShards_other (inv : Mat) {a : Nat}
    (h : ∀ i, i < total s → ¬ here s i → ¬ inBuffer s len i a) :
    (s.reconstructShards inv len).byteAt a = s.byteAt a :=
  byteAt_writeSlots_outside (fun i => length_restored s inv len i) fun i hi =>
    h i (mem_absentSlots_iff_not_here.1 hi).1 (mem_absentSlots_iff_not_here.1 hi).2

/-- The presence bits after RECONSTRUCT (43 R395). -/
theorem getLsbD_setPresent_absentSlots (s : State) {i : Nat} (hi : i < 256) :
    (setPresent s.present (s.absentSlots s.nTotal.toNat)).getLsbD i =
      (s.present.getLsbD i || decide (i < total s)) := by
  rw [getLsbD_setPresent _ _ _ hi]
  by_cases hhere : here s i <;> simp [mem_absentSlots_iff_not_here, hhere]

/-- The lengths after RECONSTRUCT (43 R395). -/
theorem getElem_setLens_absentSlots (s : State) (l : Word) (i : Fin 256) :
    (setLens s.shardLen (s.absentSlots s.nTotal.toNat) l)[i.val] =
      if i.val < total s ∧ ¬ here s i.val then l else s.shardLen[i.val] := by
  have h := getElem?_setLens s.shardLen (s.absentSlots s.nTotal.toNat) l i.val i.isLt
  rw [Vector.getElem?_eq_getElem i.isLt, Vector.getElem?_eq_getElem i.isLt] at h
  simp only [mem_absentSlots_iff_not_here, ← apply_ite some, Option.some.injEq] at h
  exact h

/-! ### The message -/

/-- Every slot that is present holds its shard of the message, whose `k`-th bytes are `msg j k` (43 R397). -/
def HoldsMessage (s : State) (len : Nat) (msg : Nat → Nat → Byte) : Prop :=
  ∀ i k, i < total s → here s i → k < len → s.byteAt (s.addrOf i + k) = s.cm.rowDot (msg · k) i

/-- The source slots are D present slots (43 R395). -/
theorem length_sourceSlots (h : data s ≤ (presentList s).length) : s.sourceSlots.length = data s :=
  List.length_take_of_le h

theorem mem_presentList_of_lt {a : Nat} (ha : a < (presentList s).length) :
    (presentList s).getD a 0 < total s ∧ here s ((presentList s).getD a 0) := by
  rw [List.getD_eq_getElem _ _ ha]
  exact mem_presentSlots.1 (List.getElem_mem ha)

/-- The data shards RECONSTRUCT knows or recovers are the message: the source slots' bytes are the decode matrix times
the message, and its inverse takes them back (43 R396, R397). -/
theorem dataByte_eq_message {p k : Nat} {inv : Mat} {msg : Nat → Nat → Byte}
    (hcm : codingMatrix (data s) p = .matrix s.cm) (hdp : data s ≤ total s)
    (henough : data s ≤ (presentList s).length) (hinv : s.decodeMatrix.invert = .matrix inv)
    (hmsg : HoldsMessage s len msg) (hk : k < len) {j : Nat} (hj : j < data s) : dataByte s inv j k = msg j k := by
  obtain ⟨-, hcols⟩ := dims_codingMatrix hcm
  rw [dataByte]
  split_ifs with hhere
  · rw [hmsg j k (hj.trans_le hdp) hhere hk, rowDot_codingMatrix_data hcm _ hj]
  · have hrows : s.decodeMatrix.rows = data s := length_sourceSlots henough
    have hinvcols : inv.cols = data s := (dims_invert hinv).2.trans hrows
    have hsources : ∀ a, a < s.decodeMatrix.rows →
        s.decodeMatrix.rowDot (msg · k) a = s.byteAt (s.addrOf ((presentList s).getD a 0) + k) := by
      intro a ha
      rw [hrows] at ha
      obtain ⟨hlt, hsource⟩ := mem_presentList_of_lt (ha.trans_le henough)
      rw [State.decodeMatrix, rowDot_submatrix_rows hcols _ ((length_sourceSlots henough).symm ▸ ha),
        getD_sourceSlots ha, hmsg _ k hlt hsource hk]
    have hsq : s.decodeMatrix.rows = s.decodeMatrix.cols := hrows.trans List.length_range.symm
    have hback := (solvedBy_of_invert hsq hinv _ _).1 hsources j (hrows.symm ▸ hj)
    rw [hback, Mat.rowDot, hinvcols]

/-- An absent slot is filled with its shard of the message (43 R397). -/
theorem byteAt_reconstructShards_message {p k i : Nat} {inv : Mat} {msg : Nat → Nat → Byte}
    (hcm : codingMatrix (data s) p = .matrix s.cm) (hdp : data s ≤ total s)
    (henough : data s ≤ (presentList s).length) (hinv : s.decodeMatrix.invert = .matrix inv)
    (hmsg : HoldsMessage s len msg) (hapart : ∀ i, i < total s → ¬ here s i → ¬ overlaps s len i)
    (hi : i < total s) (hk : k < len) :
    (s.reconstructShards inv len).byteAt (s.addrOf i + k) = s.cm.rowDot (msg · k) i := by
  have hdata {j : Nat} (hj : j < data s) : dataByte s inv j k = msg j k :=
    dataByte_eq_message hcm hdp henough hinv hmsg hk hj
  by_cases hhere : here s i
  · refine (byteAt_reconstructShards_other inv fun q hq habsent hin => ?_).trans (hmsg i k hi hhere hk)
    exact hapart q hq habsent (overlaps_of_inBuffer hi (fun h => habsent (h ▸ hhere)) hin (inBuffer_add i hk))
  · rw [byteAt_reconstructShards_absent inv hapart hi hhere hk]
    split_ifs with hid
    · rw [hdata hid, rowDot_codingMatrix_data hcm _ hid]
    · rw [Mat.rowDot, (dims_codingMatrix hcm).2]
      exact fieldSum_congr fun j hj => by rw [hdata hj]

end

end Sys2Proof.Machine

open Sys2Proof Sys2Proof.Machine Sys2Proof.Claims

/-- Settles O39: the absent buffers are apart from all others, so each keeps what is written to it. -/
theorem reconstructFillsAbsentSlots : Obligations.ReconstructFillsAbsentSlots := by
  refine ⟨rfl, fun s len hrec => ⟨fun hall => exec_of_ok (ruleOf_reconstruct_of_present hrec hall),
    fun habsent hbounds hapart inv hinv => ?_⟩⟩
  have hslots : ∀ i ∈ s.absentSlots s.nTotal.toNat, ¬ overlaps s len i := fun i hi =>
    hapart i (mem_absentSlots_iff_not_here.1 hi).1 (mem_absentSlots_iff_not_here.1 hi).2
  exact ⟨_, _, _, exec_of_ok (ruleOf_reconstruct_of_inverse hrec habsent hbounds hslots hinv),
    getElem_setLens_absentSlots s _, fun _ => getLsbD_setPresent_absentSlots s,
    fun _ _ => byteAt_reconstructShards_absent inv hapart, fun _ => byteAt_reconstructShards_other inv⟩

/-- Settles O42: the inverse of the decode matrix takes the source slots' bytes back to the message, and the coding
matrix takes the message to every slot. -/
theorem reconstructRestoresTheCollection : Obligations.ReconstructRestoresTheCollection := by
  intro s t len msg hinvariant hlens hbytes h herr i k hi hk
  obtain ⟨u, hu, rfl⟩ := exists_ok_of_not_err h herr
  obtain ⟨len', hchecks, hcase⟩ := reconstructRule_ok hu
  obtain ⟨hconf, -, henough, -, hsizes⟩ := (reconstructChecks_ok ..).1 hchecks
  obtain ⟨hd, -, -, hcm⟩ := hinvariant.configuredAs hconf
  have hdp : data s ≤ total s := by rw [total, hinvariant.total]; exact Nat.le_add_right ..
  obtain ⟨-, hcols⟩ := dims_codingMatrix hcm
  have hmsg : HoldsMessage s len msg := fun i k hi hhere hk => by
    rw [hbytes i k hi hhere hk, Mat.rowDot, hcols]
  obtain ⟨hfirst, hhere⟩ := mem_presentList_of_lt (hd.trans henough)
  obtain rfl : len' = len := (hsizes _ (mem_presentSlots.2 ⟨hfirst, hhere⟩)).2.symm.trans (hlens _ hfirst hhere)
  have hshard : u.byteAt (s.addrOf i + k) = s.cm.rowDot (msg · k) i := by
    obtain ⟨hall, rfl⟩ | ⟨-, -, hapart, inv, hinv, rfl⟩ := hcase
    · have hpresent : ∀ j ∈ List.range u.nTotal.toNat, u.isPresent j = true :=
        List.length_filter_eq_length_iff.1 (hall.trans List.length_range.symm)
      exact hmsg i k hi (hpresent i (List.mem_range.2 hi)) hk
    · refine byteAt_reconstructShards_message hcm hdp henough hinv hmsg (fun j hj habsent => ?_) hi hk
      exact not_overlaps_iff.2 (hapart j (mem_absentSlots_iff_not_here.2 ⟨hj, habsent⟩))
  rwa [Mat.rowDot, hcols] at hshard

end

section
/-! SUPPORT. The shard utilities: the checks they share, and what each rule answers once those have passed. -/

namespace Sys2Proof.Machine

open Sys2Proof.Claims

/-! ### The shared checks -/

/-- More shards than the table has slots end a utility that checks the table's size first (44 R451-R455). -/
theorem exec_of_tooManyShards {i : Instr} {s : State} {f : Unit → Except CmdError State}
    (hrule : ruleOf i s = (checkTableSize s >>= f)) (hn : 256 < s.shardCount.toNat) :
    exec i s = .next (failed s 0x02#8 0) :=
  exec_of_raise (c := .tooManyShards) (hrule.trans (bind_of_raise f (if_pos hn)))

/-- The first absent slot is reported (44 R453, R454). -/
theorem checkPresent_raise {s : State} {slots : List Nat} {k : Nat} (hs : slots.Pairwise (· < ·))
    (h : FirstIn slots (fun i => ¬ here s i) k) : checkPresent s slots = raise .shardAbsent k := by
  rw [checkPresent, find?_eq_some_of_firstIn hs h fun i => by simp [State.isPresent]]

/-- A utility that only looks for an absent slot among the slots of `lo..hi` (44 R453, R454). -/
theorem exec_of_checkPresent {i : Instr} {s : State} {slots : List Nat} {lo hi : Nat}
    (hrule : ruleOf i s = (checkPresent s slots >>= fun _ => .ok s)) (hs : slots.Pairwise (· < ·))
    (hslots : ∀ j, j ∈ slots ↔ lo ≤ j ∧ j < hi) :
    (∀ k, IsFirst (fun j => ¬ here s j) lo hi k → exec i s = .next (failed s 0x17#8 k)) ∧
    ((∀ j, j < hi → lo ≤ j → here s j) → exec i s = .next (finished s)) := by
  refine ⟨fun k hk => ?_, fun hall => ?_⟩
  · obtain ⟨hlo, hhi, habsent, hmin⟩ := hk
    have hfirst : FirstIn slots (fun j => ¬ here s j) k :=
      ⟨(hslots k).2 ⟨hlo, hhi⟩, habsent, fun j hj hjk => hmin j hjk ((hslots j).1 hj).1⟩
    exact exec_of_raise (c := .shardAbsent) (hrule.trans (bind_of_raise _ (checkPresent_raise hs hfirst)))
  · have hpass : checkPresent s slots = .ok () :=
      (checkPresent_ok s slots).2 fun j hj => hall j ((hslots j).1 hj).2 ((hslots j).1 hj).1
    exact exec_of_ok (hrule.trans (bind_of_ok _ hpass))

/-! ### BYTECOUNT_OPT -/

/-- Without a present slot the list of them is empty (44 R451). -/
theorem presentSlots_eq_nil {s : State} {n : Nat} (h : ∀ i, i < n → ¬ here s i) : s.presentSlots n = [] :=
  List.filter_eq_nil_iff.2 fun i hi => h i (List.mem_range.1 hi)

/-- The list of the present slots begins with the lowest (44 R451). -/
theorem exists_presentSlots_eq_cons {s : State} {n f : Nat} (h : IsFirst (here s) 0 n f) :
    ∃ rest, s.presentSlots n = f :: rest := by
  have hhead := headD_presentSlots h
  obtain ⟨-, hf, hhere, -⟩ := h
  obtain ⟨g, rest, hlist⟩ := List.exists_cons_of_ne_nil (List.ne_nil_of_mem (mem_presentSlots.2 ⟨hf, hhere⟩))
  rw [hlist, List.headD_cons] at hhead
  exact ⟨rest, hhead ▸ hlist⟩

section

variable {hint : Bool} {s : State}

/-- A given hint of 0 ends BYTECOUNT_OPT (44 R451). -/
theorem ruleOf_byteCountOpt_of_zero (hn : s.shardCount.toNat ≤ 256) (hzero : hint = true ∧ s.hint = 0#32) :
    ruleOf (.byteCountOpt hint) s = raise .invalidShardSize 0 := by
  rw [ruleOf, byteCountOptRule, bind_of_ok _ ((checkTableSize_ok s).2 hn), if_pos hzero]

/-- No present slot ends BYTECOUNT_OPT, with a hint and without (44 R451). -/
theorem ruleOf_byteCountOpt_of_none (hn : s.shardCount.toNat ≤ 256) (hhint : ¬(hint = true ∧ s.hint = 0#32))
    (hnone : ∀ i, i < s.shardCount.toNat → ¬ here s i) : ruleOf (.byteCountOpt hint) s = raise .tooFewShards 0 := by
  rw [ruleOf, byteCountOptRule, bind_of_ok _ ((checkTableSize_ok s).2 hn), if_neg hhint, presentSlots_eq_nil hnone]

/-- With a present slot BYTECOUNT_OPT takes the hint or that slot's length (44 R451). -/
theorem ruleOf_byteCountOpt_of_first (hn : s.shardCount.toNat ≤ 256) (hhint : ¬(hint = true ∧ s.hint = 0#32))
    {f : Fin 256} (hf : IsFirst (here s) 0 s.shardCount.toNat f.val) : ruleOf (.byteCountOpt hint) s =
      .ok { s with byteCount := if hint then s.hint else s.shardLen[f.val] } := by
  obtain ⟨rest, hlist⟩ := exists_presentSlots_eq_cons hf
  rw [ruleOf, byteCountOptRule, bind_of_ok _ ((checkTableSize_ok s).2 hn), if_neg hhint, hlist]
  simp only [Vector.getElem?_eq_getElem f.isLt, Option.getD_some, State.setByteCount]

end

/-! ### CHECK_WINDOW -/

/-- Behind the size check CHECK_WINDOW asks for the window's end, which lies past SHARD_COUNT where its start does, and
then for its slots (44 R454). -/
theorem ruleOf_checkWindow {hasStart hasCount : Bool} {s : State} {start count : Nat}
    (hstart : start = if hasStart then s.winStart.toNat else 0)
    (hcount : count = if hasCount then s.winCount.toNat else s.shardCount.toNat - start)
    (hn : s.shardCount.toNat ≤ 256) : ruleOf (.checkWindow hasStart hasCount) s =
      if s.shardCount.toNat < start + count then raise .tooFewShards 0
      else checkPresent s (List.range' start count) >>= fun _ => .ok s := by
  rw [ruleOf, checkWindowRule, bind_of_ok _ ((checkTableSize_ok s).2 hn)]
  simp only [← hstart, ← hcount]
  by_cases hpast : s.shardCount.toNat < start
  · rw [if_pos hpast, if_pos (hpast.trans_le (Nat.le_add_right ..))]
  · rw [if_neg hpast]

/-! ### COUNT_PRESENT -/

/-- The number of present slots fits 9 bits (44 R455). -/
theorem toNat_countPresent {s : State} {n : Nat} (hn : n ≤ 256) :
    (BitVec.ofNat 9 (s.presentSlots n).length).toNat = (List.range n).countP fun i => s.present.getLsbD i := by
  have hfits : (s.presentSlots n).length < 2 ^ 9 := ((length_presentSlots_le s n).trans hn).trans_lt (by decide)
  rw [BitVec.toNat_ofNat, Nat.mod_eq_of_lt hfits, List.countP_eq_length_filter]
  rfl

end Sys2Proof.Machine

open Sys2Proof Sys2Proof.Machine Sys2Proof.Claims

/-- Settles O43: with a hint only the hint is read, without one SHARD_COUNT and slot 0. -/
theorem byteCountResult : Obligations.ByteCountResult := by
  intro hint s
  refine ⟨by cases hint <;> rfl, ?_, ?_, ?_, ?_⟩ <;> rintro rfl h
  · exact exec_of_raise (c := .invalidShardSize) (if_pos h)
  · exact exec_of_ok (if_neg h)
  · exact exec_of_raise (c := .tooFewShards) (if_pos h)
  · exact exec_of_ok (if_neg h)

/-- Settles O44: each check answers in its turn, and the list of the present slots begins with the lowest. -/
theorem byteCountOptResult : Obligations.ByteCountOptResult := by
  intro hint s
  refine ⟨by cases hint <;> rfl, exec_of_tooManyShards rfl, fun hn => ⟨fun hgiven hzero => ?_, fun hor => ?_⟩⟩
  · exact exec_of_raise (ruleOf_byteCountOpt_of_zero hn ⟨hgiven, hzero⟩)
  have hhint : ¬(hint = true ∧ s.hint = 0#32) := by rwa [not_and_or, Bool.not_eq_true]
  refine ⟨fun hnone => ?_, fun f hf => ?_⟩
  · exact exec_of_raise (ruleOf_byteCountOpt_of_none hn hhint hnone)
  · exact exec_of_ok (ruleOf_byteCountOpt_of_first hn hhint hf)

/-- Settles O45: the slots below SHARD_COUNT are the ones set, and the others keep their bits. -/
theorem markAllPresentResult : Obligations.MarkAllPresentResult := by
  refine ⟨rfl, fun s => ⟨exec_of_tooManyShards rfl, fun hn =>
    ⟨_, exec_of_ok (bind_of_ok _ ((checkTableSize_ok s).2 hn)), fun i hi => ?_⟩⟩⟩
  rw [getLsbD_setPresent _ _ _ hi, Bool.or_comm]
  simp only [List.mem_range]

/-- Settles O46: behind the size check the slots below SHARD_COUNT are scanned in rising order. -/
theorem checkAllPresentResult : Obligations.CheckAllPresentResult := by
  refine ⟨rfl, fun s => ⟨exec_of_tooManyShards rfl, fun hn => ?_⟩⟩
  obtain ⟨habsent, hpresent⟩ := exec_of_checkPresent (i := .checkAllPresent) (lo := 0) (hi := s.shardCount.toNat)
    (bind_of_ok _ ((checkTableSize_ok s).2 hn)) List.pairwise_lt_range fun j => by simp
  exact ⟨habsent, fun hall => hpresent fun j hj _ => hall j hj⟩

/-- Settles O47: a window that ends inside the collection is all that is scanned. -/
theorem checkWindowResult : Obligations.CheckWindowResult := by
  intro hasStart hasCount s start count hstart hcount
  refine ⟨by cases hasStart <;> cases hasCount <;> rfl, exec_of_tooManyShards rfl, fun hn hpast => ?_,
    fun hn hend => ?_⟩
  · exact exec_of_raise (c := .tooFewShards) ((ruleOf_checkWindow hstart hcount hn).trans (if_pos (by omega)))
  · exact exec_of_checkPresent ((ruleOf_checkWindow hstart hcount hn).trans (if_neg (not_lt.2 hend)))
      (List.pairwise_lt_range' 1) fun _ => List.mem_range'_1

/-- Settles O48: PRESENT_COUNT is the length of the list of the present slots, at most 256. -/
theorem countPresentResult : Obligations.CountPresentResult :=
  ⟨rfl, fun s => ⟨exec_of_tooManyShards rfl, fun hn =>
    ⟨_, exec_of_ok (bind_of_ok _ ((checkTableSize_ok s).2 hn)), toNat_countPresent hn⟩⟩⟩

end

section
/-! SUPPORT. The error codes a command can report: what each check raises, carried through a rule's chain of checks. -/

namespace Sys2Proof.Machine

open Sys2Proof.Claims

/-- Every error this answer can be has one of the codes (60 R500). -/
def RaisesOnly {α : Type} (codes : List Byte) (x : Except CmdError α) : Prop :=
  ∀ e, x = .error e → e.code.value ∈ codes

section
variable {α β : Type} {codes : List Byte}

/-! ### Chains of checks -/

theorem raisesOnly_ok (a : α) : RaisesOnly codes (.ok a) := nofun

theorem raisesOnly_raise {c : ErrCode} {info : Nat} (h : c.value ∈ codes) :
    RaisesOnly codes (raise (α := α) c info) := fun _ he => Except.error.inj he ▸ h

theorem RaisesOnly.mono {more : List Byte} {x : Except CmdError α} (hx : RaisesOnly codes x) (h : codes ⊆ more) :
    RaisesOnly more x := fun e he => h (hx e he)

/-- A chain raises what its first link or its rest does. -/
theorem RaisesOnly.bind {x : Except CmdError α} {f : α → Except CmdError β} (hx : RaisesOnly codes x)
    (hf : ∀ a, RaisesOnly codes (f a)) : RaisesOnly codes (x >>= f) := by
  intro e h
  cases x with
  | error e' => exact hx e (congrArg _ (Except.error.inj h))
  | ok a => exact hf a e h

theorem raisesOnly_ite {p : Prop} [Decidable p] {x y : Except CmdError α} (hx : RaisesOnly codes x)
    (hy : RaisesOnly codes y) : RaisesOnly codes (if p then x else y) := by
  split
  · exact hx
  · exact hy

/-! ### What each check raises -/

variable (s : State)

/-- 40 R206. -/
theorem raisesOnly_checkConfigured (h : 0x11#8 ∈ codes) : RaisesOnly codes (checkConfigured s) :=
  raisesOnly_ite (raisesOnly_ok _) (raisesOnly_raise h)

/-- 40 R207. -/
theorem raisesOnly_checkCount (hfew : 0x01#8 ∈ codes) (hmany : 0x02#8 ∈ codes) : RaisesOnly codes (checkCount s) :=
  raisesOnly_ite (raisesOnly_raise hfew) (raisesOnly_ite (raisesOnly_raise hmany) (raisesOnly_ok _))

/-- 40 R210, 43 R395. -/
theorem raisesOnly_checkSizes (slots : List Nat) (len : Nat) (h : 0x03#8 ∈ codes) :
    RaisesOnly codes (checkSizes s slots len) := by
  unfold checkSizes
  split
  exacts [raisesOnly_raise h, raisesOnly_ok _]

/-- CheckDenseSizes is the size check of all slots, and answers the length of slot 0 (40 R210). -/
theorem checkDenseSizes_eq :
    checkDenseSizes s = (checkSizes s s.allSlots (s.lenOf 0) >>= fun _ => .ok (s.lenOf 0)) := by
  unfold checkDenseSizes State.allSlots
  cases checkSizes s (List.range s.nTotal.toNat) (s.lenOf 0) <;> rfl

/-- 40 R208. -/
theorem raisesOnly_checkBounds (slots : List Nat) (len : Nat) (h : 0x12#8 ∈ codes) :
    RaisesOnly codes (checkBounds s slots len) := by
  unfold checkBounds
  split
  exacts [raisesOnly_raise h, raisesOnly_ok _]

/-- 40 R209. -/
theorem raisesOnly_checkOverlap (slots written : List Nat) (len : Nat) (h : 0x13#8 ∈ codes) :
    RaisesOnly codes (checkOverlap s slots written len) := by
  unfold checkOverlap
  split
  exacts [raisesOnly_raise h, raisesOnly_ok _]

/-- 44 R451-R455. -/
theorem raisesOnly_checkTableSize (h : 0x02#8 ∈ codes) : RaisesOnly codes (checkTableSize s) :=
  raisesOnly_ite (raisesOnly_raise h) (raisesOnly_ok _)

/-- 44 R453, R454. -/
theorem raisesOnly_checkPresent (slots : List Nat) (h : 0x17#8 ∈ codes) :
    RaisesOnly codes (checkPresent s slots) := by
  unfold checkPresent
  split
  exacts [raisesOnly_raise h, raisesOnly_ok _]

/-- 42 R302. -/
theorem raisesOnly_definedMat (m : MatReg) (h : 0x15#8 ∈ codes) : RaisesOnly codes (definedMat s m) :=
  raisesOnly_ite (raisesOnly_raise h) (raisesOnly_ok _)

/-- 42 R303. -/
theorem raisesOnly_checkDims (r c : Nat) (h : 0x15#8 ∈ codes) : RaisesOnly codes (checkDims r c) :=
  raisesOnly_ite (raisesOnly_raise h) (raisesOnly_ok _)

/-- 42 R325. -/
theorem raisesOnly_checkIndices (a : Mat) (r c : Nat) (h : 0x16#8 ∈ codes) :
    RaisesOnly codes (checkIndices s a r c) := by
  unfold checkIndices
  split
  · exact raisesOnly_raise h
  · split
    exacts [raisesOnly_raise h, raisesOnly_ok _]

/-! ### What each coder command's rule raises -/

/-- 43 R380. -/
theorem raisesOnly_configureRule : RaisesOnly [0x04#8, 0x05#8] (configureRule s) := by
  refine raisesOnly_ite (raisesOnly_raise (by decide)) ?_
  split
  exacts [raisesOnly_raise (by decide), raisesOnly_ok _]

/-- 43 R393. -/
theorem raisesOnly_verifyChecks : RaisesOnly [0x01#8, 0x02#8, 0x03#8, 0x11#8, 0x12#8] (verifyChecks s) := by
  rw [verifyChecks, checkDenseSizes_eq, bind_assoc]
  exact (raisesOnly_checkConfigured s (by decide)).bind fun _ => (raisesOnly_checkCount s (by decide) (by decide)).bind
    fun _ => (raisesOnly_checkSizes s _ _ (by decide)).bind fun _ => (raisesOnly_ok _).bind
    fun _ => (raisesOnly_checkBounds s _ _ (by decide)).bind fun _ => raisesOnly_ok _

/-- 43 R390. -/
theorem raisesOnly_encodeChecks :
    RaisesOnly [0x01#8, 0x02#8, 0x03#8, 0x11#8, 0x12#8, 0x13#8] (encodeChecks s) := by
  rw [encodeChecks_eq]
  exact ((raisesOnly_verifyChecks s).mono (by decide)).bind fun _ =>
    (raisesOnly_checkOverlap s _ _ _ (by decide)).bind fun _ => raisesOnly_ok _

/-- 43 R395, the checks (1) to (4). -/
theorem raisesOnly_reconstructChecks : RaisesOnly [0x01#8, 0x02#8, 0x03#8, 0x11#8] (reconstructChecks s) := by
  refine (raisesOnly_checkConfigured s (by decide)).bind fun _ => ?_
  refine (raisesOnly_checkCount s (by decide) (by decide)).bind fun _ => ?_
  refine raisesOnly_ite (raisesOnly_raise (by decide)) ?_
  exact (raisesOnly_checkSizes s _ _ (by decide)).bind fun _ => raisesOnly_ok _

/-- 43 R395. -/
theorem raisesOnly_reconstructRule :
    RaisesOnly [0x01#8, 0x02#8, 0x03#8, 0x05#8, 0x11#8, 0x12#8, 0x13#8] (reconstructRule s) := by
  refine ((raisesOnly_reconstructChecks s).mono (by decide)).bind fun len => raisesOnly_ite (raisesOnly_ok _) ?_
  refine (raisesOnly_checkBounds s _ _ (by decide)).bind fun _ => ?_
  refine (raisesOnly_checkOverlap s _ _ _ (by decide)).bind fun _ => ?_
  split
  exacts [raisesOnly_raise (by decide), raisesOnly_ok _]

/-! ### What each shard utility's rule raises -/

/-- 44 R450. -/
theorem raisesOnly_byteCountRule (hint : Bool) : RaisesOnly [0x01#8, 0x07#8] (byteCountRule hint s) :=
  raisesOnly_ite (raisesOnly_ite (raisesOnly_raise (by decide)) (raisesOnly_ok _))
    (raisesOnly_ite (raisesOnly_raise (by decide)) (raisesOnly_ok _))

/-- 44 R451. -/
theorem raisesOnly_byteCountOptRule (hint : Bool) :
    RaisesOnly [0x01#8, 0x02#8, 0x07#8] (byteCountOptRule hint s) := by
  refine (raisesOnly_checkTableSize s (by decide)).bind fun _ => raisesOnly_ite (raisesOnly_raise (by decide)) ?_
  split
  exacts [raisesOnly_raise (by decide), raisesOnly_ok _]

/-- 44 R454. -/
theorem raisesOnly_checkWindowRule (hasStart hasCount : Bool) :
    RaisesOnly [0x01#8, 0x02#8, 0x17#8] (checkWindowRule hasStart hasCount s) := by
  refine (raisesOnly_checkTableSize s (by decide)).bind fun _ => raisesOnly_ite (raisesOnly_raise (by decide)) ?_
  refine raisesOnly_ite (raisesOnly_raise (by decide)) ?_
  exact (raisesOnly_checkPresent s _ (by decide)).bind fun _ => raisesOnly_ok _

/-! ### What GF_DIV's and each matrix command's rule raises -/

variable (d a b : MatReg)

/-- 41 R273. -/
theorem raisesOnly_gfDivRule : RaisesOnly [0x14#8] (gfDivRule s) := by
  unfold gfDivRule
  split
  exacts [raisesOnly_raise (by decide), raisesOnly_ok _]

/-- 42 R323. -/
theorem raisesOnly_matMulRule : RaisesOnly [0x06#8, 0x15#8] (matMulRule d a b s) :=
  (raisesOnly_definedMat s a (by decide)).bind fun _ => (raisesOnly_definedMat s b (by decide)).bind
    fun _ => raisesOnly_ite (raisesOnly_raise (by decide)) (raisesOnly_ok _)

/-- 42 R324. -/
theorem raisesOnly_matAugmentRule : RaisesOnly [0x06#8, 0x15#8] (matAugmentRule d a b s) :=
  (raisesOnly_definedMat s a (by decide)).bind fun _ => (raisesOnly_definedMat s b (by decide)).bind
    fun _ => raisesOnly_ite (raisesOnly_raise (by decide)) <|
      raisesOnly_ite (raisesOnly_raise (by decide)) (raisesOnly_ok _)

/-- 42 R325. -/
theorem raisesOnly_matSubmatrixRule : RaisesOnly [0x15#8, 0x16#8] (matSubmatrixRule d a s) :=
  (raisesOnly_definedMat s a (by decide)).bind fun _ => (raisesOnly_checkDims _ _ (by decide)).bind
    fun _ => (raisesOnly_checkIndices s _ _ _ (by decide)).bind fun _ => raisesOnly_ok _

/-- 42 R326. -/
theorem raisesOnly_matInvertRule : RaisesOnly [0x05#8, 0x06#8, 0x15#8] (matInvertRule d a s) := by
  refine (raisesOnly_definedMat s a (by decide)).bind fun x => raisesOnly_ite (raisesOnly_raise (by decide)) ?_
  split
  exacts [raisesOnly_raise (by decide), raisesOnly_ok _]

/-- The rule of a command raises the codes the table gives the command (60 R500). -/
theorem raisesOnly_ruleOf (i : Instr) : RaisesOnly (errorsOf i) (ruleOf i s) := by
  cases i with
  | gfAdd | gfSub | gfMul | gfExp => exact raisesOnly_ok _
  | configure => exact raisesOnly_configureRule s
  | encode => exact (raisesOnly_encodeChecks s).bind fun _ => raisesOnly_ok _
  | verify => exact (raisesOnly_verifyChecks s).bind fun _ => raisesOnly_ok _
  | reconstruct => exact raisesOnly_reconstructRule s
  | byteCount hint => exact raisesOnly_byteCountRule s hint
  | byteCountOpt hint => exact raisesOnly_byteCountOptRule s hint
  | markAllPresent | countPresent => exact (raisesOnly_checkTableSize s (.head _)).bind fun _ => raisesOnly_ok _
  | checkAllPresent =>
    exact (raisesOnly_checkTableSize s (by decide)).bind fun _ =>
      (raisesOnly_checkPresent s _ (by decide)).bind fun _ => raisesOnly_ok _
  | checkWindow hasStart hasCount => exact raisesOnly_checkWindowRule s hasStart hasCount
  | gfDiv => exact raisesOnly_gfDivRule s
  | matNew | matVandermonde => exact (raisesOnly_checkDims _ _ (.head _)).bind fun _ => raisesOnly_ok _
  | matIdentity => exact raisesOnly_ite (raisesOnly_raise (.head _)) (raisesOnly_ok _)
  | matMul d a b => exact raisesOnly_matMulRule s d a b
  | matAugment d a b => exact raisesOnly_matAugmentRule s d a b
  | matSubmatrix d a => exact raisesOnly_matSubmatrixRule s d a
  | matInvert d a => exact raisesOnly_matInvertRule s d a
  | matLoadCm => exact (raisesOnly_checkConfigured s (.head _)).bind fun _ => raisesOnly_ok _

end

end Sys2Proof.Machine

open Sys2Proof Sys2Proof.Machine Sys2Proof.Claims

/-- Settles O11: the error reported is one the command's rule raised, and no code of the table is NONE. -/
theorem commandReportsOnlyItsOwnCodes : Obligations.CommandReportsOnlyItsOwnCodes := by
  intro i s t h herr
  obtain ⟨e, he, rfl⟩ := exists_error_of_err h herr
  exact ⟨raisesOnly_ruleOf s i e he, value_ne_errNone e.code⟩

end

section
/-! SUPPORT. The interrupt: its two registers are open to the host at any time, and a completion raises it. -/

namespace Sys2Proof.Machine

open Sys2Proof.Claims

/-- A location open to writes while BUSY = 1 takes a write at any time (20 R103, R106). -/
theorem hostWrite_offset_open {s t : State} {l : Loc} {v : Word} (hopen : openWhileBusy true l = true)
    (hl : l.placed s.shmemSize) (ht : s.writeLoc v l = some t) :
    hostWrite 32 l.offset v s = .next (answered t .done) :=
  hostWrite_of_writeLoc (reachedLoc_eq_ok_iff.2 ⟨rfl, ⟨hl, rfl⟩, fun _ => hopen⟩) ht

/-- Every completion sets DONE_IP (40 R204, R205). -/
theorem doneIp_exec {i : Instr} {s t : State} (h : exec i s = .next t) : t.doneIp = true := by
  obtain ⟨u, -, rfl⟩ | ⟨e, rfl⟩ := exec_next h <;> rfl

/-- No command writes INT_ENABLE (10 R45). -/
theorem doneIe_exec {i : Instr} {s t : State} (h : exec i s = .next t) : t.doneIe = s.doneIe :=
  congrArg (·.2.1) (hostWritten_exec h)

end Sys2Proof.Machine

open Sys2Proof Sys2Proof.Machine Sys2Proof.Claims

/-- Settles O56: both registers are open with BUSY = 1 too, and of the two a completion sets DONE_IP alone. -/
theorem interruptPendingAndEnable : Obligations.InterruptPendingAndEnable := by
  intro s v
  have hstatus : hostWrite 32 0x0020 v s = .next (answered { s with doneIp := w1cDoneIp s.doneIp v } .done) :=
    hostWrite_offset_open (l := .intStatus) rfl trivial rfl
  refine ⟨by simp only [State.irq, Bool.and_eq_true], fun i t h => ?_, fun hone => ?_, fun hzero => ?_,
    hostWrite_offset_open (l := .intEnable) rfl trivial rfl, fun hb => ?_, rfl⟩
  · have hip := doneIp_exec h
    have hie := doneIe_exec h
    exact ⟨hip, hie, by rw [State.irq, hip, hie, Bool.true_and]⟩
  · rw [hstatus, w1cDoneIp, hone, Bool.not_true, Bool.and_false]
  · rw [hstatus, w1cDoneIp, hzero, Bool.not_false, Bool.and_true]
  · exact ⟨_, hostWrite_offset_idle (l := .cmd) hb trivial rfl, rfl⟩

end

section
/-! SUPPORT. The reset: every register at its value of 70 R550, and shard memory all draws. -/

namespace Sys2Proof.Machine

open Sys2Proof.Claims

/-- The reset values do not depend on what the reset input keeps or counts: the parameter SHMEM_SIZE, the number of
resets, the host agent (70 R551, logs 1, 2, 6). -/
theorem resetValues_of_reset (size n : Nat) (host : HostAgent) :
    ResetValues { State.reset with shmemSize := size, resets := n, host := host } where
  status := ⟨rfl, rfl, rfl, rfl, rfl⟩
  report := ⟨rfl, rfl, rfl⟩
  interrupt := ⟨rfl, rfl⟩
  config := ⟨rfl, rfl, rfl, rfl, rfl⟩
  collection := ⟨rfl, rfl, rfl, rfl⟩
  results := ⟨rfl, rfl⟩
  alu := ⟨rfl, rfl, rfl, rfl⟩
  matArgs := ⟨rfl, rfl⟩
  codingMatrix := ⟨rfl, rfl⟩
  mats m := by simp [State.mat, State.reset, Mat.undefined]
  presence _ _ := BitVec.getLsbD_zero
  descriptors _ := ⟨Vector.getElem_replicate _, Vector.getElem_replicate _⟩
  rowList _ := Vector.getElem_replicate _
  colList _ := Vector.getElem_replicate _
  irq := rfl

/-- With nothing written since reset every byte of shard memory is a draw of that reset (10 R63). -/
theorem byteAt_of_shmem_nil {s : State} (h : s.shmem = []) (a : Nat) : s.byteAt a = Config.shmemDraw s.resets a := by
  rw [State.byteAt, h, Memory.lookup, Option.getD_none]

end Sys2Proof.Machine

open Sys2Proof Sys2Proof.Machine Sys2Proof.Claims

/-- Settles O57: busy or idle, the step of a reset move is the reset, and only what it keeps depends on the state before. -/
theorem resetPutsEveryRegisterToItsValue : Obligations.ResetPutsEveryRegisterToItsValue := by
  refine ⟨resetValues_of_reset _ _ _, byteAt_of_shmem_nil rfl, fun s ms hm => ?_⟩
  have hstep : step s = .next (s.withMoves ms).hardReset := step_cons hm nofun
  exact ⟨_, hstep, resetValues_of_reset _ _ _, rfl, rfl, byteAt_of_shmem_nil rfl⟩

end
